-- ==== Sys2Proof/Word.lean ====
section
/-! DEFINITION. The bit-vector types of the machine (00_scope.md R3, R5). -/

namespace Sys2Proof

/-- A byte. -/
abbrev Byte := BitVec 8

/-- A 16-bit word: a register, an offset, a limit, an error code (00_scope.md R3). -/
abbrev Word := BitVec 16

/-- A 24-bit physical address (20_memory.md R40). -/
abbrev Addr := BitVec 24

/-- A privilege level, 0 the most privileged (10_state.md R24). -/
abbrev Level := BitVec 2

end Sys2Proof
end

