-- ==== Sys2Proof/Config.lean ====
section
/-! DEFINITION. What is fixed for one machine (00_scope.md R4, 10_state.md R34): values for the parameters the spec leaves
open, the constants it states, and the free values, which have no body. -/

namespace Sys2Proof

/-- The steppings of the part (00_scope.md R8). -/
inductive Stepping where
  | a1 | b1 | later
deriving DecidableEq, Repr

/-- The two settings of PHYS_WRAP (00_scope.md R4, D15); the unset parameter is `none`. -/
inductive PhysWrap where
  | wrap24 | fault
deriving DecidableEq, Repr

namespace Config

/-! ### Parameters the spec leaves open and gives no default for (log 9): no body -/

/-- Wait states of the area's memory (10_state.md R34). -/
opaque areaWaitStates : Nat
/-- MAX_INSN_LEN (D23). -/
opaque maxInsnLen : Nat
/-- PREFETCH_DEPTH (D27). -/
opaque prefetchDepth : Nat
/-- OP0F04_ERROR_CODE (D19). -/
opaque op0F04ErrorCode : Word
/-- REAL_MODE_IDTR_USED (D29). -/
opaque realModeIdtrUsed : Bool

/-- An instruction of this length is never too long: 95_test_vectors.md V9 and P2 execute one of four bytes (log 16). -/
def lengthAlwaysAllowed : Nat := 4

/-! ### Free values (log 11): a fresh one for every index, no body -/

/-- An unspecified bit. -/
opaque freeBit : Nat → Bool
/-- An unspecified byte. -/
opaque freeByte : Nat → Byte
/-- An unspecified word. -/
opaque freeWord : Nat → Word
/-- An unspecified 24-bit address. -/
opaque freeAddr : Nat → Addr
/-- Unspecified writes to memory: any finite list of them. -/
opaque freeWrites : Nat → List (Addr × Byte)

/-- DPL in the access byte that a real mode segment load makes (20_memory.md R53: not stated). -/
opaque realLoadDpl : BitVec 2
/-- Accessed bit in the access byte that a real mode segment load makes (20_memory.md R53: not stated). -/
opaque realLoadAccessed : BitVec 1
/-- Whether a protected mode load of a segment register fails a check the source does not describe (60_exceptions.md R252,
"further conditions are not in the source"), by register, selector, descriptor and level. -/
opaque furtherLoadCheckFails : Nat → Word → (Addr × Byte × Word) → Level → Bool
/-- Whether WAIT raises exception 7 while TS is set (42_other_instructions.md R165: "not in the source"; log 52). -/
opaque waitTrapsOnTs : Bool
/-- For which value of DF the correction of an index register is upwards (42_other_instructions.md R175, N17). -/
opaque restartUpwards : Bool → Bool

/-! ### Constants the spec states -/

/-- First byte of the LOADALL area (40_loadall.md R103). -/
def areaBase : Addr := 0x000800
/-- Length of the LOADALL area in bytes (40_loadall.md R103). -/
def areaLength : Nat := 102
/-- Bus cycles of LOADALL, one word each (20_memory.md R61). -/
def loadallBusCycles : Nat := 51
/-- LOADALL_CLOCKS, nominal; no rule reads it (D24). -/
def loadallClocks : Nat := 195

/-! ### RESET_STATE and POWER_UP_ADDRESS (10_state.md R33, 70_reset_and_hazards.md R270 to R272)

The family's values of 93_implementation_defined.md G9 (PRESUMED, log 5); MSW bit 0 is the source's. -/

/-- FLAGS after RESET (G9). -/
def resetFlags : Word := 0x0002
/-- MSW after RESET (G9); bit 0 is 0 (10_state.md R33). -/
def resetMsw : Word := 0xFFF0
/-- IP after RESET (G9). -/
def resetIp : Word := 0xFFF0
/-- CS after RESET (G9). -/
def resetCs : Word := 0xF000
/-- Base of the CS cache after RESET (G9): with `resetIp` the first fetch is at FFFFF0H. -/
def resetCsBase : Addr := 0xFF0000
/-- Limit of the segment caches after RESET (G9). -/
def resetLimit : Word := 0xFFFF
/-- Access byte of the segment caches after RESET: valid, DPL 0, writable data, accessed (log 5). -/
def resetAccess : Byte := 0x93
/-- Limit of IDTR after RESET (G9). -/
def resetIdtrLimit : Word := 0x03FF

end Config
end Sys2Proof
end

