-- ==== Sys2Proof/Syntax.lean ====
section
/-! DEFINITION. The instructions: one constructor for each row of spec/opcode_table.json. -/

namespace Sys2Proof

/-- The instructions of the opcode table. `m`, `x` and `r` are the MOD, REG and R/M fields of the byte after the opcode
(30_encoding.md R85); a row that fixes REG carries only `m` and `r`. -/
inductive Instr where
  /-- 0FH 05H (40_loadall.md R114). -/
  | loadall
  /-- 0FH 04H (41_undocumented_opcodes.md R131). -/
  | op0F04
  /-- 82H (41_undocumented_opcodes.md R132). -/
  | alias82 (m : BitVec 2) (x : BitVec 3) (r : BitVec 3)
  /-- 80H (41_undocumented_opcodes.md R137). -/
  | grp80 (m : BitVec 2) (x : BitVec 3) (r : BitVec 3)
  /-- D0H with REG = 6 (41_undocumented_opcodes.md R133). -/
  | shiftD0Reg6 (m : BitVec 2) (r : BitVec 3)
  /-- D1H with REG = 6 (41_undocumented_opcodes.md R133). -/
  | shiftD1Reg6 (m : BitVec 2) (r : BitVec 3)
  /-- D6H (41_undocumented_opcodes.md R134). -/
  | opD6
  /-- F1H, the prefix that performs no function (41_undocumented_opcodes.md R135). -/
  | pfxF1
  /-- F6H with REG = 1 (41_undocumented_opcodes.md R136). -/
  | testF6Reg1 (m : BitVec 2) (r : BitVec 3)
  /-- F7H with REG = 1 (41_undocumented_opcodes.md R136). -/
  | testF7Reg1 (m : BitVec 2) (r : BitVec 3)
  /-- F6H with REG = 0 (41_undocumented_opcodes.md R137). -/
  | testF6Reg0 (m : BitVec 2) (r : BitVec 3)
  /-- F7H with REG = 0 (41_undocumented_opcodes.md R137). -/
  | testF7Reg0 (m : BitVec 2) (r : BitVec 3)
deriving DecidableEq, Repr

/-- An instruction with the F1H bytes that stand before it (41_undocumented_opcodes.md R135). -/
structure PrefixedInstr where
  f1s : Nat
  instr : Instr
deriving DecidableEq, Repr

end Sys2Proof
end

