-- ==== Sys2Proof/WellFormed.lean ====
section
/-! DEFINITION. Lengths and well-formedness of instructions. -/

namespace Sys2Proof

/-- Bytes of the encoding that the table gives a row (30_encoding.md R80); for the aliased instructions the opcode and
ModRM byte, what follows them being not in the source. -/
def Instr.length : Instr → Nat
  | .loadall => 2
  | .op0F04 => 2
  | .alias82 _ _ _ => 2
  | .grp80 _ _ _ => 2
  | .shiftD0Reg6 _ _ => 2
  | .shiftD1Reg6 _ _ => 2
  | .opD6 => 1
  | .pfxF1 => 1
  | .testF6Reg1 _ _ => 2
  | .testF7Reg1 _ _ => 2
  | .testF6Reg0 _ _ => 2
  | .testF7Reg0 _ _ => 2

/-- Whether an instruction of `n` bytes, prefixes included, is within MAX_INSN_LEN (30_encoding.md R84, D23; log 16). -/
def lengthAllowed (maxLen n : Nat) : Bool :=
  decide (n ≤ Config.lengthAlwaysAllowed) || decide (n ≤ maxLen)

/-- F1H is a prefix, no instruction of its own: another instruction must follow it (30_encoding.md R80). -/
def Instr.isPrefix : Instr → Bool
  | .pfxF1 => true
  | .loadall => false
  | .op0F04 => false
  | .alias82 _ _ _ => false
  | .grp80 _ _ _ => false
  | .shiftD0Reg6 _ _ => false
  | .shiftD1Reg6 _ _ => false
  | .opD6 => false
  | .testF6Reg1 _ _ => false
  | .testF7Reg1 _ _ => false
  | .testF6Reg0 _ _ => false
  | .testF7Reg0 _ _ => false

/-- A prefixed instruction is well formed when what follows the F1H bytes is an instruction and the whole is not too long
(41_undocumented_opcodes.md R135). A bare `Instr` needs no check: its fields have the widths of the encoding. -/
def PrefixedInstr.wellFormed (maxLen : Nat) (p : PrefixedInstr) : Bool :=
  !p.instr.isPrefix && lengthAllowed maxLen (p.f1s + p.instr.length)

end Sys2Proof
end

