-- ==== Sys2Proof/Decode.lean ====
section
/-! DEFINITION. The decoder, total on any bytes and refusing by name (30_encoding.md R80 to R92), and the encoder. -/

namespace Sys2Proof

/-- Why a byte sequence is no instruction of the spec. -/
inductive DecodeError where
  /-- The opcode byte has no encoding in the source (30_encoding.md R92). -/
  | opcodeNotInSource (b : Byte)
  /-- The byte after 0FH is neither 04H nor 05H (30_encoding.md R83). -/
  | secondByteNotInSource (b : Byte)
  /-- The REG field after this opcode byte selects an instruction the source does not give (30_encoding.md R86). -/
  | regNotInSource (b : Byte) (x : BitVec 3)
deriving DecidableEq, Repr

/-- What the decoder reads from the bytes at hand. -/
inductive DecodeResult where
  /-- An instruction and the number of bytes it took. -/
  | instr (i : Instr) (n : Nat)
  /-- The bytes are the beginning of an encoding: one more is needed. -/
  | more
  | refuse (e : DecodeError)
deriving DecidableEq, Repr

/-- MOD, bits 7-6 of the byte after the opcode (30_encoding.md R85). -/
def modField (b : Byte) : BitVec 2 := b.extractLsb' 6 2
/-- REG, bits 5-3 of the byte after the opcode (30_encoding.md R85). -/
def regField (b : Byte) : BitVec 3 := b.extractLsb' 3 3
/-- R/M, bits 2-0 of the byte after the opcode (30_encoding.md R85). -/
def rmField (b : Byte) : BitVec 3 := b.extractLsb' 0 3

/-- The byte after the opcode 0FH (30_encoding.md R83). -/
def decodeTwoByte (b : Byte) : DecodeResult :=
  if b = 0x05 then .instr .loadall 2
  else if b = 0x04 then .instr .op0F04 2
  else .refuse (.secondByteNotInSource b)

/-- The byte after D0H (`word` false) or D1H (`word` true): REG = 6 (30_encoding.md R86). -/
def decodeShift (word : Bool) (b : Byte) : DecodeResult :=
  if regField b = 6 then
    .instr (if word then .shiftD1Reg6 (modField b) (rmField b) else .shiftD0Reg6 (modField b) (rmField b)) 2
  else .refuse (.regNotInSource (if word then 0xD1 else 0xD0) (regField b))

/-- The byte after F6H (`word` false) or F7H (`word` true): REG = 0 or 1 (30_encoding.md R86). -/
def decodeTest (word : Bool) (b : Byte) : DecodeResult :=
  if regField b = 0 then
    .instr (if word then .testF7Reg0 (modField b) (rmField b) else .testF6Reg0 (modField b) (rmField b)) 2
  else if regField b = 1 then
    .instr (if word then .testF7Reg1 (modField b) (rmField b) else .testF6Reg1 (modField b) (rmField b)) 2
  else .refuse (.regNotInSource (if word then 0xF7 else 0xF6) (regField b))

/-- Whether an opcode byte is followed by a byte that is part of the encoding (30_encoding.md R80, R86). That 80H and 82H,
which R92 refuses on the opcode byte alone, wait for theirs is the model's choice (log 38). -/
def needsSecondByte (b : Byte) : Bool :=
  b == 0x0F || b == 0x80 || b == 0x82 || b == 0xD0 || b == 0xD1 || b == 0xF6 || b == 0xF7

/-- An encoding of one byte (30_encoding.md R86, R92). -/
def decodeOne (b : Byte) : DecodeResult :=
  if b = 0xD6 then .instr .opD6 1
  else if b = 0xF1 then .instr .pfxF1 1
  else .refuse (.opcodeNotInSource b)

/-- An encoding of two bytes (30_encoding.md R86, R92). -/
def decodeTwo (b c : Byte) : DecodeResult :=
  if b = 0x0F then decodeTwoByte c
  else if b = 0x80 then .instr (.grp80 (modField c) (regField c) (rmField c)) 2
  else if b = 0x82 then .instr (.alias82 (modField c) (regField c) (rmField c)) 2
  else if b = 0xD0 then decodeShift false c
  else if b = 0xD1 then decodeShift true c
  else if b = 0xF6 then decodeTest false c
  else if b = 0xF7 then decodeTest true c
  else .refuse (.opcodeNotInSource b)

/-- The decoder of 30_encoding.md R92, on the bytes from the instruction's first one. An F1H byte is read by itself: the
step counts it and goes on with the next byte (log 15). It never answers exception 6 (R87, R92). -/
def decode : List Byte → DecodeResult
  | [] => .more
  | [b] => if needsSecondByte b then .more else decodeOne b
  | b :: c :: _ => if needsSecondByte b then decodeTwo b c else decodeOne b

/-- The byte after the opcode, from its fields (30_encoding.md R85). -/
def modRM (m : BitVec 2) (x r : BitVec 3) : Byte := m ++ x ++ r

/-- The bytes of an instruction, lowest address first (spec/opcode_table.json; 30_encoding.md R91). -/
def encode : Instr → List Byte
  | .loadall => [0x0F, 0x05]
  | .op0F04 => [0x0F, 0x04]
  | .alias82 m x r => [0x82, modRM m x r]
  | .grp80 m x r => [0x80, modRM m x r]
  | .shiftD0Reg6 m r => [0xD0, modRM m 6 r]
  | .shiftD1Reg6 m r => [0xD1, modRM m 6 r]
  | .opD6 => [0xD6]
  | .pfxF1 => [0xF1]
  | .testF6Reg1 m r => [0xF6, modRM m 1 r]
  | .testF7Reg1 m r => [0xF7, modRM m 1 r]
  | .testF6Reg0 m r => [0xF6, modRM m 0 r]
  | .testF7Reg0 m r => [0xF7, modRM m 0 r]

/-- The bytes of an instruction with the F1H bytes before it (41_undocumented_opcodes.md R135). -/
def encodePrefixed (p : PrefixedInstr) : List Byte :=
  List.replicate p.f1s 0xF1 ++ encode p.instr

/-- The longest encoding of an instruction, in bytes (30_encoding.md R80). -/
def longestInstr : Nat := 2

/-- The bytes, lowest address first, of an instruction of `nbits` bits whose bits the table numbers as `w`. The table
numbers a row as one number whose leftmost byte is the byte at the lowest address (30_encoding.md R91, the "fixed" and
"fields" of opcode_table.json; log 35). Bytes the row does not have are 0. -/
def tableBytes (nbits w : Nat) : List Byte :=
  let n := (nbits + 7) / 8
  (List.range longestInstr).map fun k =>
    if k < n then BitVec.ofNat 8 (w >>> (8 * (n - 1 - k))) else 0

/-- The instruction the decoder reads from the bits `w` of a row of `nbits` bits (log 35). -/
def decodeTableWord (nbits w : Nat) : Option Instr :=
  match decode (tableBytes nbits w) with
  | .instr i _ => some i
  | .more => none
  | .refuse _ => none

end Sys2Proof
end

