-- ==== Sys2Proof/Machine/State.lean ====
section
/-! DEFINITION. The state of the machine as plain data (10_state.md), its faults and refusals, and the state after RESET. -/

namespace Sys2Proof.Machine

/-- The general registers (10_state.md R10). -/
inductive Reg where
  | ax | bx | cx | dx | si | di | bp | sp
deriving DecidableEq, Repr

/-- The segment registers (10_state.md R16). -/
inductive SegReg where
  | es | cs | ss | ds
deriving DecidableEq, Repr

/-- A descriptor cache register (10_state.md R17); also the base, access byte and limit of a descriptor. -/
structure Cache where
  base : Addr
  access : Byte
  limit : Word
deriving DecidableEq, Repr

/-- GDTR or IDTR (10_state.md R23). -/
structure TableReg where
  base : Addr
  limit : Word
deriving DecidableEq, Repr

/-- The 25 registers that LOADALL loads (10_state.md R26). -/
structure Regs where
  ax : Word
  bx : Word
  cx : Word
  dx : Word
  si : Word
  di : Word
  bp : Word
  sp : Word
  ip : Word
  flags : Word
  msw : Word
  es : Word
  cs : Word
  ss : Word
  ds : Word
  esCache : Cache
  csCache : Cache
  ssCache : Cache
  dsCache : Cache
  ldtr : Word
  ldtCache : Cache
  tr : Word
  tssCache : Cache
  gdtr : TableReg
  idtr : TableReg
deriving DecidableEq, Repr

/-- POWER_UP_ADDRESS (70_reset_and_hazards.md R271): CS, the base of its cache, and IP after RESET. -/
structure PowerUp where
  cs : Word
  csBase : Addr
  ip : Word
deriving DecidableEq, Repr

/-- The named parameters of 00_scope.md R4 that the rules read. A machine's state holds them, no step changes them, and
every statement holds for every value of them (log 9). -/
structure Params where
  /-- STEPPING (D25). -/
  stepping : Stepping
  /-- Wait states of the memory that holds the LOADALL area (10_state.md R34). -/
  areaWaitStates : Nat
  /-- PHYS_WRAP (D15); `none` is unset. -/
  physWrap : Option PhysWrap
  /-- RESET_STATE (D18): the registers after RESET, but for the fields of POWER_UP_ADDRESS and MSW bit 0. -/
  resetState : Regs
  /-- POWER_UP_ADDRESS (D18). -/
  powerUp : PowerUp
  /-- MAX_INSN_LEN (D23). -/
  maxInsnLen : Nat
  /-- PREFETCH_DEPTH (D27). -/
  prefetchDepth : Nat
  /-- SHIFT_REG6_ALIAS (D22); `none` is unset. -/
  shiftReg6Alias : Option (BitVec 3)
  /-- OP0F04_ERROR_CODE (D19). -/
  op0F04ErrorCode : Word
  /-- REAL_MODE_IDTR_USED (D29). -/
  realModeIdtrUsed : Bool
deriving DecidableEq, Repr

/-- Every register after RESET, by the parameters (10_state.md R33; 70_reset_and_hazards.md R270 to R272): MSW bit 0 is 0,
CS, the base of its cache and IP are POWER_UP_ADDRESS, the rest is RESET_STATE. -/
def Params.resetRegs (p : Params) : Regs :=
  { p.resetState with
    msw := p.resetState.msw &&& 0xFFFE
    ip := p.powerUp.ip
    cs := p.powerUp.cs
    csCache := { p.resetState.csCache with base := p.powerUp.csBase } }

/-- Physical memory (20_memory.md R40): the bytes that differ from what an unlisted address reads as, by rising address. -/
abbrev Memory := List Host.Cell

/-- What an unlisted address reads as (DESIGN CHOICE, log 7). -/
def Memory.unlisted : Byte := 0

/-- The canonical form from a lower bound on: addresses rise strictly, lie in the 24-bit space, and no entry is equal to
what an unlisted address reads as. -/
def Memory.wfFrom : Nat → Memory → Bool
  | _, [] => true
  | lo, (a, b) :: m => decide (lo ≤ a) && decide (a < 2 ^ 24) && (b != Memory.unlisted) && Memory.wfFrom (a + 1) m

/-- The canonical form of memory. -/
def Memory.wf (m : Memory) : Bool := Memory.wfFrom 0 m

/-- An exception or interrupt as an outcome (60_exceptions.md R247), with the saved CS:IP the handler sees (R240). -/
inductive Event where
  /-- Exception `n` with the error code it delivers, if it delivers one (60_exceptions.md R230, R232). -/
  | exception (n : Nat) (code : Option Word) (savedCs savedIp : Word)
  /-- An interrupt through vector `v`: external, by INT, or a numeric error (60_exceptions.md R241, R247). -/
  | interrupt (v : Byte) (savedCs savedIp : Word)
deriving DecidableEq, Repr

/-- A data transfer of the processor extension after an operand's first word (20_memory.md R59): the word at an offset
of a segment, written if a value is given, else read. The offset is counted without wrap, so that a later word may lie
beyond FFFFH (R50). -/
structure PxTransfer where
  seg : SegReg
  off : Nat
  write : Option Word
deriving DecidableEq, Repr

/-- What the environment presents to the processor in one step (60_exceptions.md R241, D14; log 12). -/
structure Input where
  /-- The RESET pin (70_reset_and_hazards.md R270). -/
  reset : Bool
  /-- The RESET pin of the 80287 (70_reset_and_hazards.md R273). -/
  pxReset : Bool
  /-- The vector of a pending external interrupt. -/
  interrupt : Option Byte
  /-- A HOLD request during the step. -/
  hold : Bool
  /-- Bytes that other bus masters write during the step, the earliest first. -/
  writes : List (Addr × Byte)
  /-- A processor extension data transfer during the step; it counts only while the 80287 is at work. At most one in a step
  is the model's choice: how many there are during an instruction is not in the source (20_memory.md R65; log 27). -/
  transfer : Option PxTransfer
  /-- The 80287's ERROR signal (60_exceptions.md R241; 42_other_instructions.md R172). -/
  error : Bool
  /-- The 80287 has finished the ESC instruction it was at work on. -/
  pxDone : Bool
deriving DecidableEq, Repr

/-- An environment that presents nothing. -/
def Input.quiet : Input :=
  { reset := false, pxReset := false, interrupt := none, hold := false, writes := [], transfer := none, error := false,
    pxDone := false }

/-- The 80287 as far as the spec speaks of it (42_other_instructions.md R165 to R172; log 28). -/
structure Px where
  /-- Its mode (R169). -/
  protectedMode : Bool
  /-- All its data registers are marked empty (R168). -/
  allEmpty : Bool
  /-- Its top of stack (R168). -/
  top : Nat
  /-- All its errors are masked (R168). -/
  allMasked : Bool
  /-- Exception 9 has occurred, and since then neither FNINIT (R168) nor a reset of the 80287 (log 28). -/
  needsInit : Bool
  /-- Its instruction pointer: a 20-bit address in real mode, a 32-bit virtual pointer in protected mode (R170). -/
  instrPtr : BitVec 32
  /-- Its data pointer, of the same format (R170). -/
  dataPtr : BitVec 32
  /-- It is at work on an ESC instruction: transfers of its operand may still come (20_memory.md R66). -/
  busy : Bool
deriving DecidableEq, Repr

/-- The state of the machine. -/
structure State where
  /-- The registers LOADALL loads. -/
  regs : Regs
  /-- Stopped by opcode 0F04H (10_state.md R29). -/
  stopped : Bool
  /-- The prefetch queue (10_state.md R30): entry `k` is the byte prefetched from offset IP + k, `none` where none has
  been prefetched that could differ from memory (log 14). -/
  prefetch : List (Option Byte)
  /-- Physical memory. -/
  mem : Memory
  /-- The processor extension. -/
  px : Px
  /-- F1H bytes of the current instruction already consumed; IP still names the first of them (log 15). -/
  prefixes : Nat
  /-- The exception or interrupt outcome of the last step (60_exceptions.md R247). -/
  event : Option Event
  /-- The input of the current step. -/
  now : Input
  /-- The inputs still to come, one a step; none left means a quiet environment. -/
  inputs : List Input
  /-- The parameters of the machine (00_scope.md R4): no step changes them. -/
  params : Params
  /-- How many free values have been used (log 11). -/
  draws : Nat
deriving DecidableEq, Repr

/-- Why the machine stops. -/
inductive Fault where
  /-- Base plus offset exceeds FFFFFFH and the parameter PHYS_WRAP says that the reference faults (20_memory.md R51).
  Raised by every reference through a segment register. Safe: the source does not say what happens. -/
  | physicalAddressOverflow
deriving DecidableEq, Repr

/-- The instructions whose semantics the source does not give (41_undocumented_opcodes.md R133, R137). -/
inductive Target where
  /-- The group at opcode 80H. -/
  | group80
  /-- TEST at F6H. -/
  | testF6
  /-- TEST at F7H. -/
  | testF7
  /-- Opcode D0H with this REG value. -/
  | shiftD0 (x : BitVec 3)
  /-- Opcode D1H with this REG value. -/
  | shiftD1 (x : BitVec 3)
deriving DecidableEq, Repr

/-- Why a step has no meaning. Every refusal is safe: the model claims nothing of the step. -/
inductive Refusal where
  /-- The arm of exec has no meaning yet. Safe. -/
  | notModelled (mnemonic : String)
  /-- The bytes are no encoding of the source (30_encoding.md R83, R92). Raised by the fetch. Safe. -/
  | notInSource (e : DecodeError)
  /-- The instruction is longer than MAX_INSN_LEN (30_encoding.md R84, D23). Raised by the fetch. Safe. -/
  | instructionTooLong
  /-- The semantics of the instruction are not in the source (41_undocumented_opcodes.md R137). Raised by 80H, TEST and
  their aliases. Safe. -/
  | semanticsNotInSource (t : Target)
  /-- SHIFT_REG6_ALIAS is unset (41_undocumented_opcodes.md R133, D22). Raised by D0H and D1H with REG = 6. Safe. -/
  | shiftAliasUnset
  /-- Opcode D6H (41_undocumented_opcodes.md R134, D21). Safe. -/
  | proprietaryOpcode
  /-- CPL is unspecified and the two candidates give different answers (10_state.md R24, D6). Raised by every rule that
  reads CPL. Safe. -/
  | cplUnspecified
  /-- LOADALL in protected mode with bit 0 of the word at 806H clear (40_loadall.md R110, D5). Safe. -/
  | mswBit0ClearInProtectedMode
  /-- LOADALL with byte 3 of the GDTR or IDTR entry not zero (40_loadall.md R107, D8). Safe. -/
  | tableEntryByte3NotZero
  /-- The cache holds a segment type outside the source's lists for this use (20_memory.md R48, D26). Raised by every
  reference through a segment register. Safe. -/
  | segmentTypeUnspecified
  /-- Base plus offset exceeds FFFFFFH and PHYS_WRAP is unset (20_memory.md R51, D15). Raised by every reference through a
  segment register. Safe. -/
  | physWrapUnset
  /-- A null selector is loaded into CS or SS in protected mode, by a load or by a return (20_memory.md R55 speaks of DS and
  ES). Safe. -/
  | nullSelectorNotForCsSs
  /-- A task switch (60_exceptions.md R248: not in the source). Raised by the return from a trap with NT set. Safe. -/
  | taskSwitchNotInSource
  /-- Port I/O to 00F8H to 00FFH, by IN, OUT, INS or OUTS (20_memory.md R42, U24, U36). Safe. -/
  | reservedPort
  /-- Port I/O to any other port: the device is not in the source (20_memory.md R42). Safe. -/
  | portDeviceNotInSource
deriving DecidableEq, Repr

/-- The answers of a step of this machine. -/
abbrev Outcome := Host.Outcome State Fault Refusal

/-- The value of RESET_STATE for the machine right after reset: `Config`'s reset values (log 5), the others 0 (log 6). -/
def Regs.reset : Regs where
  ax := 0
  bx := 0
  cx := 0
  dx := 0
  si := 0
  di := 0
  bp := 0
  sp := 0
  ip := Config.resetIp
  flags := Config.resetFlags
  msw := Config.resetMsw
  es := 0
  cs := Config.resetCs
  ss := 0
  ds := 0
  esCache := { base := 0, access := Config.resetAccess, limit := Config.resetLimit }
  csCache := { base := Config.resetCsBase, access := Config.resetAccess, limit := Config.resetLimit }
  ssCache := { base := 0, access := Config.resetAccess, limit := Config.resetLimit }
  dsCache := { base := 0, access := Config.resetAccess, limit := Config.resetLimit }
  ldtr := 0
  ldtCache := { base := 0, access := 0, limit := 0 }
  tr := 0
  tssCache := { base := 0, access := 0, limit := 0 }
  gdtr := { base := 0, limit := 0 }
  idtr := { base := 0, limit := Config.resetIdtrLimit }

/-- The 80287 after a RESET of the whole system: in real mode (10_state.md R33); the rest log 28. -/
def Px.reset : Px where
  protectedMode := false
  allEmpty := false
  top := 0
  allMasked := false
  needsInit := false
  instrPtr := 0
  dataPtr := 0
  busy := false

/-- The parameters of a machine nobody has configured: STEPPING at its default (D25), PHYS_WRAP and SHIFT_REG6_ALIAS
unset (D15, D22), RESET_STATE and POWER_UP_ADDRESS the family's (logs 5, 6), the others unknown (log 9). -/
def Params.unconfigured : Params where
  stepping := .later
  areaWaitStates := Config.areaWaitStates
  physWrap := none
  resetState := Regs.reset
  powerUp := { cs := Config.resetCs, csBase := Config.resetCsBase, ip := Config.resetIp }
  maxInsnLen := Config.maxInsnLen
  prefetchDepth := Config.prefetchDepth
  shiftReg6Alias := none
  op0F04ErrorCode := Config.op0F04ErrorCode
  realModeIdtrUsed := Config.realModeIdtrUsed

/-- The machine right after RESET (10_state.md R33; logs 5, 6, 7, 9, 12). -/
def State.reset : State where
  regs := Params.unconfigured.resetRegs
  stopped := false
  prefetch := []
  mem := []
  px := Px.reset
  prefixes := 0
  event := none
  now := Input.quiet
  inputs := []
  params := Params.unconfigured
  draws := 0

end Sys2Proof.Machine
end

