-- ==== Sys2Proof/Machine/Flags.lean ====
section
/-! DEFINITION. The fields of the flag word and of the machine status word, and what POPF and IRET may write (10_state.md
R13 to R15; 42_other_instructions.md R159, R160). The positions but MSW bit 0 are PRESUMED (logs 3, 4). -/

namespace Sys2Proof.Machine

/-- The bits of `new` where `mask` has a one, those of `old` elsewhere. -/
def withBits (mask new old : Word) : Word := (new &&& mask) ||| (old &&& ~~~mask)

/-- IF, bit 9 (10_state.md R13). -/
def maskIf : Word := 0x0200
/-- DF, bit 10 (10_state.md R13). -/
def maskDf : Word := 0x0400
/-- IOPL, bits 13-12 (10_state.md R13). -/
def maskIopl : Word := 0x3000
/-- NT, bit 14 (10_state.md R13). -/
def maskNt : Word := 0x4000
/-- The bits of the flag word the source names. -/
def maskNamedFlags : Word := maskIf ||| maskDf ||| maskIopl ||| maskNt

/-- The interrupt enable bit of a flag word. -/
def flagIf (f : Word) : Bool := f.getLsbD 9
/-- The direction flag of a flag word. -/
def flagDf (f : Word) : Bool := f.getLsbD 10
/-- The I/O privilege level of a flag word. -/
def flagIopl (f : Word) : Level := f.extractLsb' 12 2
/-- The nested task flag of a flag word. -/
def flagNt (f : Word) : Bool := f.getLsbD 14

/-- A flag word with IF set or cleared, by STI or CLI (10_state.md R13). -/
def setFlagIf (b : Bool) (f : Word) : Word := withBits maskIf (if b then maskIf else 0) f

/-- The bits of the flag word that POPF and IRET write in protected mode: IF only if CPL is at most IOPL, IOPL only if CPL
is 0, every other bit always (42_other_instructions.md R159, R160). -/
def popMask (mayIf mayIopl : Bool) : Word :=
  (~~~(maskIf ||| maskIopl)) ||| (if mayIf then maskIf else 0) ||| (if mayIopl then maskIopl else 0)

/-- The flag word after POPF or IRET takes `v` over `old` at level `cpl` in protected mode (42_other_instructions.md R159,
R160). -/
def poppedFlags (cpl : Level) (v old : Word) : Word :=
  withBits (popMask (decide (cpl ≤ flagIopl old)) (cpl == 0)) v old

/-- Bit 0 of the machine status word: protected mode (10_state.md R14, R15). -/
def mswProtected (m : Word) : Bool := m.getLsbD 0
/-- The bits of the machine status word the source names: bit 0 and TS, bit 3 (10_state.md R14). -/
def maskNamedMsw : Word := 0x0009
/-- TS of a machine status word (10_state.md R14). -/
def mswTs (m : Word) : Bool := m.getLsbD 3

end Sys2Proof.Machine
end

