-- ==== Sys2Proof/Machine/Access.lean ====
section
/-! DEFINITION. The access rights byte and the limit of a descriptor cache, and the checks they give (10_state.md R18 to
R20; 20_memory.md R47, R48). The layout of the byte is PRESUMED (log 2). -/

namespace Sys2Proof.Machine

/-- The kind of a memory reference (20_memory.md R45). -/
inductive Kind where
  | read | write | fetch
deriving DecidableEq, Repr

/-- Bit 7, the valid bit of a cache (10_state.md R18, R19). -/
def Cache.valid (c : Cache) : Bool := c.access.getLsbD 7
/-- Bits 6-5, the descriptor privilege level (10_state.md R18). -/
def Cache.dpl (c : Cache) : Level := c.access.extractLsb' 5 2
/-- Bit 4: a code or data segment (10_state.md R18). -/
def Cache.isSegment (c : Cache) : Bool := c.access.getLsbD 4
/-- A code segment: bits 4 and 3 set (10_state.md R18). -/
def Cache.isCode (c : Cache) : Bool := c.isSegment && c.access.getLsbD 3
/-- A data segment: bit 4 set, bit 3 clear (10_state.md R18). -/
def Cache.isData (c : Cache) : Bool := c.isSegment && !c.access.getLsbD 3
/-- An expand-down data segment: bit 2 set (10_state.md R18). -/
def Cache.expandDown (c : Cache) : Bool := c.isData && c.access.getLsbD 2
/-- A writable data segment: bit 1 set (10_state.md R18). -/
def Cache.writableData (c : Cache) : Bool := c.isData && c.access.getLsbD 1
/-- An execute/read code segment: bit 1 set (10_state.md R18). -/
def Cache.readableCode (c : Cache) : Bool := c.isCode && c.access.getLsbD 1

/-- The three types a code segment may have: execute only, execute/read, or writable expand-up data (40_loadall.md
R117), a code segment conforming or not (log 22). -/
def Cache.codeTypeListed (c : Cache) : Bool := c.isCode || (c.writableData && !c.expandDown)

/-- `OffsetsWithinLimit` of 20_memory.md R47 for the `n` bytes from offset `off`, computed without wrap (log 24). -/
def Cache.withinLimit (c : Cache) (off n : Nat) : Bool :=
  if c.expandDown then decide (c.limit.toNat < off) && decide (off + n - 1 ≤ 0xFFFF)
  else decide (off + n - 1 ≤ c.limit.toNat)

/-- What the access rights check says of a reference (20_memory.md R48). -/
inductive Verdict where
  | allowed
  /-- The reference raises exception 13 with error code 0. -/
  | denied
  /-- The source gives the case no meaning. -/
  | unspecified
deriving DecidableEq, Repr

/-- Reads and writes through a code segment: reads only if it is execute/read, never writes (20_memory.md R48). -/
def codeRights (c : Cache) : Kind → Verdict
  | .fetch => .allowed
  | .read => if c.readableCode then .allowed else .denied
  | .write => .denied

/-- The rights of a reference through CS: code segments by their type, a writable expand-up data segment everything, any
other type unspecified (20_memory.md R48, D26). A conforming code segment counts as its type with the conforming bit clear:
10_state.md R18 writes the three choices with that bit 0, so that this is the model's choice (log 22). -/
def csRights (c : Cache) (k : Kind) : Verdict :=
  if c.isCode then codeRights c k
  else if c.writableData && !c.expandDown then .allowed
  else .unspecified

/-- The rights of a reference through SS: a writable data segment, else unspecified (20_memory.md R48, D26). -/
def ssRights (c : Cache) (k : Kind) : Verdict :=
  match k with
  | .fetch => .unspecified
  | .read => if c.writableData then .allowed else .unspecified
  | .write => if c.writableData then .allowed else .unspecified

/-- The rights of a reference through DS or ES: data reads always and writes if writable, code segments by their type, a
system type unspecified (20_memory.md R48). -/
def dataRights (c : Cache) (k : Kind) : Verdict :=
  match k with
  | .fetch => .unspecified
  | .read => if c.isData then .allowed else if c.isCode then codeRights c .read else .unspecified
  | .write =>
    if c.isData then (if c.writableData then .allowed else .denied)
    else if c.isCode then codeRights c .write else .unspecified

/-- `RightsAllow` of 20_memory.md R45, by segment register (R48; log 22). -/
def rights (x : SegReg) (c : Cache) (k : Kind) : Verdict :=
  match x with
  | .cs => csRights c k
  | .ss => ssRights c k
  | .ds => dataRights c k
  | .es => dataRights c k

end Sys2Proof.Machine
end

