-- ==== Sys2Proof/Machine/Ops.lean ====
section
/-! DEFINITION. The named operations over memory and registers, the reference through a segment register, taking an
exception or interrupt and returning from one, and what the environment does (20_memory.md, 60_exceptions.md,
70_reset_and_hazards.md). -/

namespace Sys2Proof.Machine

/-! ### Outcomes -/

/-- An outcome with a function applied to its next state. -/
def mapNext (f : State → State) : Outcome → Outcome
  | .next s => .next (f s)
  | .fault r => .fault r
  | .refused r => .refused r

/-- An outcome followed by another operation on its next state. -/
def andThen (o : Outcome) (f : State → Outcome) : Outcome :=
  match o with
  | .next s => f s
  | .fault r => .fault r
  | .refused r => .refused r

/-! ### Memory (20_memory.md R40, R43, R44) -/

/-- The byte at an address. -/
def Memory.read : Memory → Nat → Byte
  | [], _ => Memory.unlisted
  | (x, y) :: m, a => if x = a then y else Memory.read m a

/-- Memory with the byte at an address replaced; an entry equal to what an unlisted address reads as is not kept. -/
def Memory.write : Memory → Nat → Byte → Memory
  | [], a, b => if b = Memory.unlisted then [] else [(a, b)]
  | (x, y) :: m, a, b =>
    if a < x then (if b = Memory.unlisted then (x, y) :: m else (a, b) :: (x, y) :: m)
    else if a = x then (if b = Memory.unlisted then m else (a, b) :: m)
    else (x, y) :: Memory.write m a b

/-- `MemRead(addr, 1)` (20_memory.md R44). -/
def Memory.byte (m : Memory) (a : Addr) : Byte := Memory.read m a.toNat

/-- `MemRead(addr, 2)`: the low byte at the lower address (20_memory.md R43, R44; log 1). -/
def Memory.word (m : Memory) (a : Addr) : Word := m.byte (a + 1) ++ m.byte a

/-- `MemWrite(addr, 1, v)` (20_memory.md R44). -/
def Memory.setByte (m : Memory) (a : Addr) (v : Byte) : Memory := Memory.write m a.toNat v

/-- `MemWrite(addr, 2, v)`: the low byte at the lower address (20_memory.md R43, R44). -/
def Memory.setWord (m : Memory) (a : Addr) (v : Word) : Memory :=
  (m.setByte a (v.extractLsb' 0 8)).setByte (a + 1) (v.extractLsb' 8 8)

/-- Memory after a list of byte writes, the first one first. -/
def Memory.setBytes : Memory → List (Addr × Byte) → Memory
  | m, [] => m
  | m, w :: ws => Memory.setBytes (m.setByte w.1 w.2) ws

/-! ### Registers (10_state.md R10, R11, R16, R17) -/

/-- A general register. -/
def Regs.gpr (r : Regs) : Reg → Word
  | .ax => r.ax
  | .bx => r.bx
  | .cx => r.cx
  | .dx => r.dx
  | .si => r.si
  | .di => r.di
  | .bp => r.bp
  | .sp => r.sp

/-- The registers with a general register replaced. -/
def Regs.setGpr (r : Regs) (x : Reg) (v : Word) : Regs :=
  match x with
  | .ax => { r with ax := v }
  | .bx => { r with bx := v }
  | .cx => { r with cx := v }
  | .dx => { r with dx := v }
  | .si => { r with si := v }
  | .di => { r with di := v }
  | .bp => { r with bp := v }
  | .sp => { r with sp := v }

/-- AL, BL, CL, DL: the low byte of a register (10_state.md R11; log 46). -/
def Regs.lowByte (r : Regs) (x : Reg) : Byte := (r.gpr x).extractLsb' 0 8
/-- AH, BH, CH, DH: the high byte of a register (10_state.md R11; log 46). -/
def Regs.highByte (r : Regs) (x : Reg) : Byte := (r.gpr x).extractLsb' 8 8

/-- The visible part of a segment register (10_state.md R16): it can always be read (42_other_instructions.md R151). -/
def Regs.seg (r : Regs) : SegReg → Word
  | .es => r.es
  | .cs => r.cs
  | .ss => r.ss
  | .ds => r.ds

/-- The descriptor cache of a segment register (10_state.md R17). -/
def Regs.cache (r : Regs) : SegReg → Cache
  | .es => r.esCache
  | .cs => r.csCache
  | .ss => r.ssCache
  | .ds => r.dsCache

/-- The registers with a segment register's visible part and cache replaced. -/
def Regs.setSeg (r : Regs) (x : SegReg) (v : Word) (c : Cache) : Regs :=
  match x with
  | .es => { r with es := v, esCache := c }
  | .cs => { r with cs := v, csCache := c }
  | .ss => { r with ss := v, ssCache := c }
  | .ds => { r with ds := v, dsCache := c }

/-! ### Mode and privilege (10_state.md R15, R24) -/

/-- Protected mode (10_state.md R15). -/
def State.isProtected (s : State) : Bool := mswProtected s.regs.msw

/-- The DPL field of the CS cache: one of the two fields that are CPL (10_state.md R24). -/
def State.csDpl (s : State) : Level := s.regs.csCache.dpl
/-- The DPL field of the SS cache: the other (10_state.md R24). -/
def State.ssDpl (s : State) : Level := s.regs.ssCache.dpl

/-- CPL where it is specified (10_state.md R24). -/
def State.cpl (s : State) : Option Level := if s.csDpl = s.ssDpl then some s.csDpl else none

/-- The answer to a question about CPL, where both candidates give the same one (D6). -/
def State.askCpl {α : Type} [DecidableEq α] (s : State) (p : Level → α) : Option α :=
  if p s.csDpl = p s.ssDpl then some (p s.csDpl) else none

/-- IOPL (10_state.md R25). -/
def State.iopl (s : State) : Level := flagIopl s.regs.flags

/-! ### The instruction pointer (10_state.md R12; 20_memory.md R68) -/

/-- The offset of the next instruction, after one of `len` bytes, prefixes included (10_state.md R12). What IP becomes
past FFFFH is not stated (N13): a free value (log 51). -/
def nextIp (len : Nat) (s : State) : Word :=
  if s.regs.ip.toNat + len < 2 ^ 16 then s.regs.ip + BitVec.ofNat 16 len else Config.freeWord s.draws

/-- The end of an instruction of `len` bytes that completes without a control transfer (10_state.md R12): IP advances over
it, and what is prefetched beyond it stays. -/
def advance (len : Nat) (s : State) : State :=
  { s with
    regs := { s.regs with ip := nextIp len s }
    prefetch := s.prefetch.drop len
    prefixes := 0
    draws := s.draws + 1 }

/-- A jump within the code segment: IP is the target and nothing stays prefetched (10_state.md R30; 20_memory.md R68). -/
def jumpTo (target : Word) (s : State) : State :=
  { s with regs := { s.regs with ip := target }, prefetch := [], prefixes := 0 }

/-! ### Taking an exception or interrupt (60_exceptions.md R240, R247; logs 10, 40) -/

/-- The error code 0 of most exceptions 12 and 13 (60_exceptions.md R231, R232). -/
def zeroCode : Option Word := some 0

/-- The outcome `exception(n, code, saved_ip)`: the state is exactly the one before the instruction, and the saved CS:IP
is given. -/
def takeExceptionAt (n : Nat) (code : Option Word) (savedIp : Word) (s : State) : State :=
  { s with event := some (.exception n code s.regs.cs savedIp), prefixes := 0 }

/-- TAKING AN EXCEPTION: the saved CS:IP is that of the first byte of the instruction, prefixes included. -/
def takeException (n : Nat) (code : Option Word) (s : State) : State :=
  takeExceptionAt n code s.regs.ip s

/-- The outcome `interrupt(v)`: the saved CS:IP is that of the next instruction, `savedIp`. -/
def takeInterruptAt (v : Byte) (savedIp : Word) (s : State) : State :=
  { s with event := some (.interrupt v s.regs.cs savedIp), prefixes := 0 }

/-- The outcome `interrupt(v)` at an instruction boundary. -/
def takeInterrupt (v : Byte) (s : State) : State := takeInterruptAt v s.regs.ip s

/-- Exception 13 with an error code. -/
def protectionException (code : Word) (s : State) : State := takeException 13 (some code) s

/-- Error code of a faulting load of a selector: bits 1-0 cleared (60_exceptions.md R232). -/
def selectorErrorCode (selector : Word) : Word := selector &&& 0xFFFC

/-- Error code of a faulting INT: bits 15-3 the vector, bit 1 set, EXT clear (60_exceptions.md R232; log 25). -/
def vectorErrorCode (v : Byte) : Word := (v.zeroExtend 16 <<< 3) ||| 0x0002

/-- The privilege rule of LOADALL and 0F04H: in protected mode CPL must be 0, else exception 13 with `code`; in real mode no
check. Where only one of the two candidates for CPL is 0 the outcome is unspecified (40_loadall.md R102). -/
def requireCpl0 (code : Word) (body : State → Outcome) (s : State) : Outcome :=
  if s.isProtected then
    match s.askCpl (· == 0) with
    | some true => body s
    | some false => .next (protectionException code s)
    | none => .refused .cplUnspecified
  else body s

/-- Why a reference or a rule ends an instruction. -/
inductive Stop where
  /-- An exception with its error code. -/
  | exception (n : Nat) (code : Option Word)
  /-- An exception whose number is 12 or 13, unspecified which, with error code 0 (20_memory.md R46; log 21). -/
  | exception12or13
  | refuse (r : Refusal)
  | fault (f : Fault)
deriving DecidableEq, Repr

/-- The outcome of an instruction that ends in a `Stop`, with this saved IP. -/
def raiseAt (st : Stop) (savedIp : Word) (s : State) : Outcome :=
  match st with
  | .exception n code => .next (takeExceptionAt n code savedIp s)
  | .exception12or13 =>
    .next (takeExceptionAt (if Config.freeBit s.draws then 12 else 13) zeroCode savedIp { s with draws := s.draws + 1 })
  | .refuse r => .refused r
  | .fault f => .fault f

/-- The outcome of an instruction that ends in a `Stop`: the saved CS:IP is that of its first byte. -/
def raise (st : Stop) (s : State) : Outcome := raiseAt st s.regs.ip s

/-! ### A memory reference through a segment register (20_memory.md R45 to R51) -/

/-- The exception of an invalid cache: 13 with error code 0, but through SS 12 or 13 (20_memory.md R46). -/
def invalidStop : SegReg → Stop
  | .ss => .exception12or13
  | .es => .exception 13 zeroCode
  | .cs => .exception 13 zeroCode
  | .ds => .exception 13 zeroCode

/-- `LimitException` of 20_memory.md R49; `later` marks the second or a later word of a processor extension operand. -/
def limitStop (x : SegReg) (later : Bool) : Stop :=
  if later then .exception 9 none
  else match x with
    | .ss => .exception 12 zeroCode
    | .es => .exception 13 zeroCode
    | .cs => .exception 13 zeroCode
    | .ds => .exception 13 zeroCode

/-- `PhysAddr` of 20_memory.md R51 for `n` bytes from `off`: the address of the first, the parameter PHYS_WRAP where the
last would lie above FFFFFFH (log 23). -/
def physAddr (wrap : Option PhysWrap) (base : Addr) (off n : Nat) : Except Stop Addr :=
  if base.toNat + off + n ≤ 2 ^ 24 then .ok (base + BitVec.ofNat 24 off)
  else match wrap with
    | some .wrap24 => .ok (base + BitVec.ofNat 24 off)
    | some .fault => .error (.fault .physicalAddressOverflow)
    | none => .error (.refuse .physWrapUnset)

/-- `SegAccess` of 20_memory.md R45: the physical address of `n` bytes at offset `off` through `x`, or why there is none.
The checks come in the order valid bit, limit, rights (D16). A reference through a valid CS or SS cache of a type outside the
lists (D26) that also violates the limit raises the limit's exception by that order, where U4 and U5 name the refusal: the
model's choice (log 22). -/
def segAccess (x : SegReg) (off n : Nat) (k : Kind) (later : Bool) (s : State) : Except Stop Addr :=
  let c := s.regs.cache x
  if !c.valid then .error (invalidStop x)
  else if !c.withinLimit off n then .error (limitStop x later)
  else match rights x c k with
    | .denied => .error (.exception 13 zeroCode)
    | .unspecified => .error (.refuse .segmentTypeUnspecified)
    | .allowed => physAddr s.params.physWrap c.base off n

/-- Whether a reference violates the limit of a valid cache (20_memory.md R47). -/
def limitViolated (x : SegReg) (off n : Nat) (s : State) : Bool :=
  (s.regs.cache x).valid && !(s.regs.cache x).withinLimit off n

/-- Whether a selector is null, 0000H to 0003H (20_memory.md R55). -/
def nullSelector (v : Word) : Bool := decide (v.toNat ≤ 3)

/-! ### Fetching (10_state.md R12, R30; 20_memory.md R68) -/

/-- The physical address of the byte at offset IP + `k`, after the checks of a fetch (10_state.md R12). The offset does
not wrap (log 24). -/
def fetchAddr (k : Nat) (s : State) : Except Stop Addr :=
  (segAccess .cs s.regs.ip.toNat (k + 1) .fetch false s).map fun a => a + BitVec.ofNat 24 k

/-- The instruction byte at offset IP + `k`: the prefetched one where there is one, else memory's. -/
def fetchByte (k : Nat) (s : State) : Except Stop Byte :=
  match fetchAddr k s with
  | .error st => .error st
  | .ok a =>
    match s.prefetch[k]?.join with
    | some b => .ok b
    | none => .ok (s.mem.byte a)

/-- One entry of the prefetch queue before another bus master writes: a byte already prefetched stays; else the byte may or
may not have been prefetched (20_memory.md R68, U27). -/
def prefetchEntry (s : State) (k : Nat) : Option Byte :=
  match s.prefetch[k]?.join with
  | some b => some b
  | none => if Config.freeBit (s.draws + k) then (fetchByte k s).toOption else none

/-- What the prefetcher may hold before a store: the PREFETCH_DEPTH bytes ahead of the `len` bytes of the instruction at IP
(20_memory.md R68, D27; log 14). -/
def prefetchAhead (len : Nat) (s : State) : List (Option Byte) :=
  (List.range (len + s.params.prefetchDepth)).map (prefetchEntry s)

/-- A store to memory while an instruction of which `len` bytes have been fetched is at IP, by it or by another agent: the
prefetcher may still hold the bytes that were there (20_memory.md R65, R68). -/
def storeMem (len : Nat) (f : Memory → Memory) (s : State) : State :=
  { s with mem := f s.mem, prefetch := prefetchAhead len s, draws := s.draws + (len + s.params.prefetchDepth) }

/-! ### Reads and writes through a segment register (20_memory.md R45) -/

/-- `SegRead(X, off, 1)`. -/
def segReadByte (x : SegReg) (off : Word) (s : State) : Except Stop Byte :=
  (segAccess x off.toNat 1 .read false s).map fun a => s.mem.byte a

/-- `SegRead(X, off, 2)`. -/
def segReadWord (x : SegReg) (off : Word) (s : State) : Except Stop Word :=
  (segAccess x off.toNat 2 .read false s).map fun a => s.mem.word a

/-- `SegWrite(X, off, 1, v)` by an instruction of `len` bytes: the state with the byte written. -/
def segWriteByte (x : SegReg) (off : Word) (v : Byte) (len : Nat) (s : State) : Except Stop State :=
  (segAccess x off.toNat 1 .write false s).map fun a => storeMem len (fun m => m.setByte a v) s

/-- `SegWrite(X, off, 2, v)` by an instruction of `len` bytes: the state with the word written. -/
def segWriteWord (x : SegReg) (off : Word) (v : Word) (len : Nat) (s : State) : Except Stop State :=
  (segAccess x off.toNat 2 .write false s).map fun a => storeMem len (fun m => m.setWord a v) s

/-- The outcome of a reference of `n` bytes at `off` through `x` that stops an instruction. A limit violation through
another register than SS is not restartable in general (60_exceptions.md R239, R247; U21; log 53): what the instruction may
have written is unspecified, as `loose` says. Every other stop leaves the state before the instruction. -/
def raiseLoose (x : SegReg) (off n : Nat) (st : Stop) (savedIp : Word) (loose : State → State) (s : State) : Outcome :=
  if limitViolated x off n s && x != .ss then raiseAt st savedIp (loose s) else raiseAt st savedIp s

/-- A general register unspecified. -/
def looseReg (x : Reg) (s : State) : State :=
  { s with regs := s.regs.setGpr x (Config.freeWord s.draws), draws := s.draws + 1 }

/-- The bytes of a reference that lie within the limit, each with an unspecified value. -/
def looseBytes (x : SegReg) (off n : Nat) (s : State) : List (Addr × Byte) :=
  (List.range n).filterMap fun k =>
    match segAccess x (off + k) 1 .write false s with
    | .ok a => some (a, Config.freeByte (s.draws + k))
    | .error _ => none

/-- The bytes of a write by an instruction of `len` bytes that lie within the limit unspecified. -/
def looseWrite (x : SegReg) (off n len : Nat) (s : State) : State :=
  storeMem len (fun m => m.setBytes (looseBytes x off n s)) { s with draws := s.draws + n }

/-! ### Segment register values (20_memory.md R53, R55) -/

/-- Access byte after a real mode load: a valid, writable, expand-up data segment; DPL and the accessed bit are free
(20_memory.md R53; log 29). -/
def realLoadAccess : Byte := 1#1 ++ Config.realLoadDpl ++ 0b1001#4 ++ Config.realLoadAccessed

/-- The cache after a real mode load of the paragraph id `p` (20_memory.md R53). -/
def realCache (p : Word) : Cache :=
  { base := 0#4 ++ p ++ 0#4, access := realLoadAccess, limit := 0xFFFF }

/-- A cache of which only one thing is known, that its valid bit is zero (20_memory.md R55; log 31). -/
def nullCache (n : Nat) : Cache :=
  { base := Config.freeAddr n, access := Config.freeByte n &&& 0x7F, limit := Config.freeWord n }

/-- RPL, bits 1-0 of a selector (20_memory.md R55). -/
def selectorRpl (v : Word) : Level := v.extractLsb' 0 2

/-- The number by which `Config.furtherLoadCheckFails` knows a segment register. -/
def SegReg.index : SegReg → Nat
  | .es => 0
  | .cs => 1
  | .ss => 2
  | .ds => 3

/-- Whether loading `x` in protected mode with the selector `v` of the descriptor `d` fails at level `l`: there is no such
segment, its privilege level is less than the level (20_memory.md R56), or a check the source does not describe fails
(60_exceptions.md R252; log 30). -/
def loadFails (x : SegReg) (v : Word) (d : Option Cache) (l : Level) : Bool :=
  match d with
  | none => true
  | some c => decide (c.dpl < l) || Config.furtherLoadCheckFails x.index v (c.base, c.access, c.limit) l

/-! ### Unspecified register and memory contents (60_exceptions.md R247, D20; logs 11, 17, 18) -/

/-- How many indices `freeRegs` uses, and then some. -/
def freeRegsDraws : Nat := 64

/-- An unspecified cache. -/
def freeCache (n : Nat) : Cache :=
  { base := Config.freeAddr n, access := Config.freeByte n, limit := Config.freeWord n }

/-- Every register unspecified, but that MSW bit 0 is not cleared: only RESET reenters real mode (60_exceptions.md R251). -/
def freeRegs (n : Nat) (old : Regs) : Regs where
  ax := Config.freeWord n
  bx := Config.freeWord (n + 1)
  cx := Config.freeWord (n + 2)
  dx := Config.freeWord (n + 3)
  si := Config.freeWord (n + 4)
  di := Config.freeWord (n + 5)
  bp := Config.freeWord (n + 6)
  sp := Config.freeWord (n + 7)
  ip := Config.freeWord (n + 8)
  flags := Config.freeWord (n + 9)
  msw := Config.freeWord (n + 10) ||| (old.msw &&& 1)
  es := Config.freeWord (n + 11)
  cs := Config.freeWord (n + 12)
  ss := Config.freeWord (n + 13)
  ds := Config.freeWord (n + 14)
  esCache := freeCache (n + 15)
  csCache := freeCache (n + 16)
  ssCache := freeCache (n + 17)
  dsCache := freeCache (n + 18)
  ldtr := Config.freeWord (n + 19)
  ldtCache := freeCache (n + 20)
  tr := Config.freeWord (n + 21)
  tssCache := freeCache (n + 22)
  gdtr := { base := Config.freeAddr (n + 23), limit := Config.freeWord (n + 23) }
  idtr := { base := Config.freeAddr (n + 24), limit := Config.freeWord (n + 24) }

/-- Registers and memory unspecified, nothing prefetched, no instruction in progress and no outcome pending. That the 80287
stays as it is is the model's choice (logs 11, 17). -/
def scramble (s : State) : State :=
  { s with
    regs := freeRegs s.draws s.regs
    mem := s.mem.setBytes (Config.freeWrites s.draws)
    prefetch := []
    prefixes := 0
    event := none
    draws := s.draws + freeRegsDraws }

/-- Stopped by opcode 0F04H: registers and memory are unspecified (41_undocumented_opcodes.md R131, D20). Of the 80287 the
source says nothing there: that it stays as it is is the model's choice (log 17). -/
def enterStopped (s : State) : State := { scramble s with stopped := true }

/-- A step of a stopped processor: it executes no instruction, and what else happens is not in the source (10_state.md
R29). -/
def idleStopped (s : State) : State := scramble s

/-- The abstract step into the handler of an exception or interrupt (60_exceptions.md R247; N27): what the entry sequence
leaves is unspecified, but in real mode CS is loaded as R53 of 20_memory.md says. That the entry raises no exception of its
own is the model's choice: of a double fault the source says nothing (R249; log 11). -/
def enterHandler (s : State) : State :=
  let t := scramble s
  if s.isProtected then t
  else { t with regs := { t.regs with msw := t.regs.msw &&& 0xFFFE, csCache := realCache t.regs.cs } }

/-- Where the table of interrupt vectors lies: in protected mode at the base in IDTR, in real mode at 000000H or, by the
parameter, at that base (60_exceptions.md R245, R246). -/
def interruptTableBase (s : State) : Addr :=
  if s.isProtected then s.regs.idtr.base
  else if s.params.realModeIdtrUsed then s.regs.idtr.base else 0

/-! ### Returning from an exception or interrupt (60_exceptions.md R248) -/

/-- What a return takes from the stack (60_exceptions.md R248), and the descriptors that the two selectors name in the
tables, `none` where they name no segment: the formats of the tables are not in the source (log 30). -/
structure ReturnFrame where
  ip : Word
  cs : Word
  flags : Word
  ss : Word
  csDesc : Option Cache
  ssDesc : Option Cache
deriving DecidableEq, Repr

/-- DS or ES on a return in protected mode: where its DPL is less than 3 it may be zeroed, which the source leaves open
(42_other_instructions.md R163; log 32). -/
def zeroOnReturn (x : SegReg) (n : Nat) (r : Regs) : Regs :=
  if decide ((r.cache x).dpl < 3) && Config.freeBit n then r.setSeg x 0 (nullCache n) else r

/-- The flag word after POPF or IRET takes `v` (42_other_instructions.md R159, R160): in real mode all of it, in protected
mode by CPL and IOPL; `none` where CPL is unspecified and the candidates differ. -/
def popFlags (v : Word) (s : State) : Option Word :=
  if s.isProtected then s.askCpl fun l => poppedFlags l v s.regs.flags else some v

/-- Whether loading `x` with a selector that is not null fails on a return at level `l`: the checks of any segment register
load (42_other_instructions.md R184; 20_memory.md R56), or the descriptor's level is not the RPL of the selector. The cache
takes the descriptor as it stands (10_state.md R27), its DPL is CPL afterwards (R24), and CPL is to be that RPL
(42_other_instructions.md R164; log 33). -/
def returnLoadFails (x : SegReg) (v : Word) (d : Option Cache) (l : Level) : Bool :=
  loadFails x v d l || d.map Cache.dpl != some (selectorRpl v)

/-- Whether a return loads a null selector into CS or SS, which never produces a load fault (60_exceptions.md R232), and of
which 20_memory.md R55 says no more than of a null load of CS or SS (logs 31, 33). -/
def ReturnFrame.null (f : ReturnFrame) : Bool := nullSelector f.cs || nullSelector f.ss

/-- Why a return in protected mode at level `l` to a frame without a null selector raises exception 13: the error code, which
names the selector at fault. The RPL fields of CS and SS must be the same level and CS must name a visible code segment (42_other_instructions.md R164;
log 33). -/
def returnFault (f : ReturnFrame) (l : Level) : Option Word :=
  if selectorRpl f.cs ≠ selectorRpl f.ss then some (selectorErrorCode f.cs)
  else if returnLoadFails .cs f.cs f.csDesc l then some (selectorErrorCode f.cs)
  else if returnLoadFails .ss f.ss f.ssDesc l then some (selectorErrorCode f.ss)
  else none

/-- The registers after a return to `f` in protected mode with the flag word `fl`: CS:IP and SS from the frame, with the
descriptors of their selectors; SP is free (42_other_instructions.md R163, R164; log 33). -/
def returnRegs (f : ReturnFrame) (fl : Word) (n : Nat) (r : Regs) : Regs :=
  let r := zeroOnReturn .es (n + 1) (zeroOnReturn .ds n r)
  { r with
    flags := fl, ip := f.ip, sp := Config.freeWord (n + 2)
    cs := f.cs, csCache := f.csDesc.getD r.csCache
    ss := f.ss, ssCache := f.ssDesc.getD r.ssCache }

/-- A return in protected mode to `f`: refused where CS or SS is null, like a null load of them (20_memory.md R55); exception
13 where a selector is at fault, else the transfer to CS:IP with the flag word `flags`, `none` where it depends on an
unspecified CPL (42_other_instructions.md R163, R164, R184). -/
def protectedReturn (f : ReturnFrame) (flags : Option Word) (s : State) : Outcome :=
  if f.null then .refused .nullSelectorNotForCsSs
  else match s.askCpl (returnFault f) with
    | none => .refused .cplUnspecified
    | some (some code) => .next (protectionException code s)
    | some none =>
      match flags with
      | none => .refused .cplUnspecified
      | some fl =>
        .next { s with regs := returnRegs f fl s.draws s.regs, prefetch := [], prefixes := 0, draws := s.draws + 5 }

/-- A return in real mode to `f` with the flag word `fl`: CS is loaded like any segment register (20_memory.md R53;
42_other_instructions.md R184); SP is free (log 33). -/
def realReturn (f : ReturnFrame) (fl : Word) (s : State) : State :=
  { s with
    regs := { s.regs with
      flags := fl, ip := f.ip, sp := Config.freeWord s.draws, cs := f.cs, csCache := realCache f.cs }
    prefetch := [], prefixes := 0, draws := s.draws + 1 }

/-- RETURNING FROM A TRAP by IRET (60_exceptions.md R248; log 33): in protected mode with NT set a task switch through the
back link, where a link of 0 raises exception 13 with error code 0 (42_other_instructions.md R161). R161 and 10_state.md R13
name no mode: that a return in real mode takes no notice of NT is the model's choice (log 52). -/
def trapReturn (f : ReturnFrame) (backLink : Word) (s : State) : Outcome :=
  if s.isProtected then
    if flagNt s.regs.flags then
      (if backLink = 0 then .next (protectionException 0 s) else .refused .taskSwitchNotInSource)
    else protectedReturn f (popFlags f.flags s) s
  else .next (realReturn f f.flags s)

/-- RETURNING BY A FAR RET: like IRET to the level of the RPL fields (60_exceptions.md R253), zeroing DS and ES by the same
rule (42_other_instructions.md R163), with the flag word as it is; the flag word of `f` takes no part (log 33). -/
def farReturn (f : ReturnFrame) (s : State) : Outcome :=
  if s.isProtected then protectedReturn f (some s.regs.flags) s else .next (realReturn f s.regs.flags s)

/-! ### The environment (60_exceptions.md R241; logs 12, 13) -/

/-- The 80287 after its RESET pin: in real mode, in which FSETPM puts it in protected mode (70_reset_and_hazards.md R273); at
work on nothing, and free of the need of FNINIT that an exception 9 left, which is the model's choice (log 28); the rest
unspecified. -/
def resetPx (n : Nat) : Px where
  protectedMode := false
  allEmpty := Config.freeBit n
  top := (Config.freeWord n).toNat
  allMasked := Config.freeBit (n + 1)
  needsInit := false
  instrPtr := Config.freeWord (n + 1) ++ Config.freeWord (n + 2)
  dataPtr := Config.freeWord (n + 3) ++ Config.freeWord (n + 4)
  busy := false

/-- The state with its next input made the current one; a quiet one when none is left. -/
def nextInput (s : State) : State :=
  match s.inputs with
  | [] => { s with now := Input.quiet }
  | i :: rest => { s with now := i, inputs := rest }

/-- The effect of the 80287's RESET pin. -/
def pxResetPin (s : State) : State :=
  if s.now.pxReset then { s with px := resetPx s.draws, draws := s.draws + 5 } else s

/-- The 80287 at the beginning of a step: it may have finished its ESC instruction. -/
def pxProgress (s : State) : State := { s with px := { s.px with busy := !s.now.pxDone && s.px.busy } }

/-- A data transfer belongs to an ESC instruction: there is none while the 80287 is at work on nothing (20_memory.md R66;
log 27). -/
def admitTransfer (s : State) : State :=
  match s.now.transfer with
  | none => s
  | some _ => if s.px.busy then s else { s with now := { s.now with transfer := none } }

/-- The beginning of a step: the environment's input is sampled (D14). -/
def sampleInput (s : State) : State := admitTransfer (pxProgress (pxResetPin (nextInput s)))

/-- RESET (70_reset_and_hazards.md R270): every register at RESET_STATE and POWER_UP_ADDRESS, MSW bit 0 clear, nothing
prefetched, not stopped; memory, the 80287, the environment and the parameters stay. -/
def resetProcessor (s : State) : State :=
  { s with regs := s.params.resetRegs, stopped := false, prefetch := [], prefixes := 0, event := none }

/-- Memory with what other bus masters write during this step. -/
def memAfterBus (s : State) : Memory := s.mem.setBytes s.now.writes

/-- The bytes a word is stored as (20_memory.md R43). -/
def wordBytes (a : Addr) (v : Word) : List (Addr × Byte) := [(a, v.extractLsb' 0 8), (a + 1, v.extractLsb' 8 8)]

/-- A write of another agent during the step: like those of other bus masters it is made while the instruction runs
(20_memory.md R62, R65; 40_loadall.md R120; log 13). -/
def writeDuringStep (w : List (Addr × Byte)) (s : State) : State :=
  { s with now := { s.now with writes := w ++ s.now.writes } }

/-- The end of a step: what other agents wrote during it is in memory, and the prefetcher may still hold the bytes
that were there before (20_memory.md R65, R68): it is ahead of the F1H bytes consumed. -/
def finishStep (s : State) : State :=
  if s.now.writes.isEmpty then s
  else storeMem s.prefixes (fun m => m.setBytes s.now.writes) s

/-- Whether another agent has the bus during the step: HOLD, a bus master's write, or a processor extension transfer
(70_reset_and_hazards.md R295). -/
def busShared (i : Input) : Bool := i.hold || !i.writes.isEmpty || i.transfer.isSome

/-- The external interrupt that is taken at this boundary: one is pending, IF is set, and no instruction is in progress
(60_exceptions.md R242). -/
def enabledInterrupt (s : State) : Option Byte :=
  if flagIf s.regs.flags && s.prefixes == 0 then s.now.interrupt else none

/-- An enabled interrupt against the instruction at the same boundary, whose outcome is `o`: where the instruction would
fault, which is taken first is unspecified (60_exceptions.md R244; log 26); else the interrupt is taken. Where F1H bytes
stand before an instruction that would fault, the model looks at the first F1H byte alone, which raises nothing, and so
always takes the interrupt: the model's choice where R244 leaves it open (logs 15, 26). -/
def interruptFirst (v : Byte) (s : State) (o : Outcome) : Outcome :=
  match o with
  | .next t =>
    if t.event.isSome && Config.freeBit t.draws then .next { t with draws := t.draws + 1 }
    else .next (takeInterrupt v { s with draws := t.draws + 1 })
  | .fault _ => .next (takeInterrupt v s)
  | .refused _ => .next (takeInterrupt v s)

end Sys2Proof.Machine
end

