-- ==== Sys2Proof/Machine/Operands.lean ====
section
/-! DEFINITION. The operand forms: the implicit operand of LOADALL, the 102-byte area at 000800H (40_loadall.md R103 to
R108). Offsets are counted from 000800H. -/

namespace Sys2Proof.Machine

/-- `W(k)` of 40_loadall.md R114: the word LOADALL reads at 000800H + `k`. Where another bus master writes during the
instruction, it is the old or the new word, independently for each of the 51 (R120; log 13). -/
def areaWord (k : Nat) (s : State) : Word :=
  if s.now.writes.isEmpty then s.mem.word (Config.areaBase + BitVec.ofNat 24 k)
  else if Config.freeBit (s.draws + k / 2) then (memAfterBus s).word (Config.areaBase + BitVec.ofNat 24 k)
  else s.mem.word (Config.areaBase + BitVec.ofNat 24 k)

/-- The byte at 000800H + `k`, out of the word that holds it. -/
def areaByte (k : Nat) (s : State) : Byte :=
  if k % 2 = 0 then (areaWord k s).extractLsb' 0 8 else (areaWord (k - 1) s).extractLsb' 8 8

/-- `LoadCache` of 40_loadall.md R106: bytes 0-2 the base, byte 3 the access rights, bytes 4-5 the limit. -/
def areaCache (k : Nat) (s : State) : Cache where
  base := areaByte (k + 2) s ++ areaByte (k + 1) s ++ areaByte k s
  access := areaByte (k + 3) s
  limit := areaByte (k + 5) s ++ areaByte (k + 4) s

/-- `LoadTableReg` of 40_loadall.md R107: bytes 0-2 the base, bytes 4-5 the limit. -/
def areaTableReg (k : Nat) (s : State) : TableReg where
  base := areaByte (k + 2) s ++ areaByte (k + 1) s ++ areaByte k s
  limit := areaByte (k + 5) s ++ areaByte (k + 4) s

/-- How many indices of the free values LOADALL uses: one for each word read, and one for the erratum. -/
def loadallDraws : Nat := 64

/-- The index of the free bit of the A1/B1 erratum. -/
def erratumDraw : Nat := Config.loadallBusCycles

end Sys2Proof.Machine
end

