-- ==== Sys2Proof/Machine/Loadall.lean ====
section
/-! DEFINITION. LOADALL (40_loadall.md R100 to R126; 70_reset_and_hazards.md R295). -/

namespace Sys2Proof.Machine

/-- The conditions of the A1/B1 erratum: real mode, bit 0 of the word at 806H clear and that of the word at 804H set, wait
states or a shared bus, and an early stepping (70_reset_and_hazards.md R295). -/
def mswErratum (s : State) : Bool :=
  !s.isProtected && !(areaWord 0x06 s).getLsbD 0 && (areaWord 0x04 s).getLsbD 0
    && (s.params.areaWaitStates != 0 || busShared s.now) && s.params.stepping != .later

/-- The word LOADALL writes into MSW: the one at 806H, but for bit 0 under the erratum (70_reset_and_hazards.md R295). -/
def loadedMsw (s : State) : Word :=
  if mswErratum s then withBits 1 (if Config.freeBit (s.draws + erratumDraw) then 1 else 0) (areaWord 0x06 s)
  else areaWord 0x06 s

/-- The 25 registers from the area (40_loadall.md R104, R114). -/
def loadedRegs (s : State) : Regs where
  msw := loadedMsw s
  tr := areaWord 0x16 s
  flags := areaWord 0x18 s
  ip := areaWord 0x1A s
  ldtr := areaWord 0x1C s
  ds := areaWord 0x1E s
  ss := areaWord 0x20 s
  cs := areaWord 0x22 s
  es := areaWord 0x24 s
  di := areaWord 0x26 s
  si := areaWord 0x28 s
  bp := areaWord 0x2A s
  sp := areaWord 0x2C s
  bx := areaWord 0x2E s
  dx := areaWord 0x30 s
  cx := areaWord 0x32 s
  ax := areaWord 0x34 s
  esCache := areaCache 0x36 s
  csCache := areaCache 0x3C s
  ssCache := areaCache 0x42 s
  dsCache := areaCache 0x48 s
  gdtr := areaTableReg 0x4E s
  ldtCache := areaCache 0x54 s
  idtr := areaTableReg 0x5A s
  tssCache := areaCache 0x60 s

/-- LOADALL past its privilege check (40_loadall.md R114): unspecified where MSW bit 0 would be cleared in protected mode
(R110) or byte 3 of the GDTR or IDTR entry is not zero (R107), else every register is loaded and nothing is prefetched. -/
def loadallBody (s : State) : Outcome :=
  if s.isProtected && !(areaWord 0x06 s).getLsbD 0 then .refused .mswBit0ClearInProtectedMode
  else if areaByte 0x51 s != 0 || areaByte 0x5D s != 0 then .refused .tableEntryByte3NotZero
  else .next { s with regs := loadedRegs s, prefetch := [], prefixes := 0, draws := s.draws + loadallDraws }

/-- LOADALL (40_loadall.md R114). -/
def execLoadall (s : State) : Outcome := requireCpl0 0 loadallBody s

end Sys2Proof.Machine
end

