-- ==== Sys2Proof/Machine/Undocumented.lean ====
section
/-! DEFINITION. Opcode 0F04H, the F1H prefix, opcode D6H, and the aliased opcodes with their targets
(41_undocumented_opcodes.md R130 to R137). -/

namespace Sys2Proof.Machine

/-- 0FH 04H (41_undocumented_opcodes.md R131): exception 13 where CPL is not 0, else the processor stops. -/
def execOp0F04 (s : State) : Outcome :=
  requireCpl0 s.params.op0F04ErrorCode (fun s => .next (enterStopped s)) s

/-- F1H (41_undocumented_opcodes.md R135): a prefix that performs no function; the instruction goes on with its next byte,
and IP still names its first (60_exceptions.md R240; log 15). -/
def execPfxF1 (s : State) : Outcome := .next { s with prefixes := s.prefixes + 1 }

/-- D6H (41_undocumented_opcodes.md R134): "outcome unspecified -- the model refuses" (D21; log 37). -/
def execOpD6 (_ : State) : Outcome := .refused .proprietaryOpcode

/-- An instruction the source names as the target of an alias and does not describe (41_undocumented_opcodes.md R137;
log 38). -/
def targetOf (t : Target) (_ : State) : Outcome := .refused (.semanticsNotInSource t)

/-- The target of D0H or D1H with REG = 6: the same opcode with REG = SHIFT_REG6_ALIAS (41_undocumented_opcodes.md R133;
log 38). -/
def shiftReg6 (group : BitVec 3 → Target) (s : State) : Outcome :=
  match s.params.shiftReg6Alias with
  | none => .refused .shiftAliasUnset
  | some x => targetOf (group x) s

/-- 80H (41_undocumented_opcodes.md R137). -/
def execGrp80 (_ : BitVec 2) (_ _ : BitVec 3) (s : State) : Outcome := targetOf .group80 s

/-- 82H, an alias of 80H with the same following bytes (41_undocumented_opcodes.md R132). -/
def execAlias82 (_ : BitVec 2) (_ _ : BitVec 3) (s : State) : Outcome := targetOf .group80 s

/-- D0H with REG = 6 (41_undocumented_opcodes.md R133). -/
def execShiftD0Reg6 (_ : BitVec 2) (_ : BitVec 3) (s : State) : Outcome := shiftReg6 .shiftD0 s

/-- D1H with REG = 6 (41_undocumented_opcodes.md R133). -/
def execShiftD1Reg6 (_ : BitVec 2) (_ : BitVec 3) (s : State) : Outcome := shiftReg6 .shiftD1 s

/-- TEST, F6H with REG = 0 (41_undocumented_opcodes.md R137). -/
def execTestF6Reg0 (_ : BitVec 2) (_ : BitVec 3) (s : State) : Outcome := targetOf .testF6 s

/-- TEST, F7H with REG = 0 (41_undocumented_opcodes.md R137). -/
def execTestF7Reg0 (_ : BitVec 2) (_ : BitVec 3) (s : State) : Outcome := targetOf .testF7 s

/-- F6H with REG = 1, an alias of TEST (41_undocumented_opcodes.md R136). -/
def execTestF6Reg1 (_ : BitVec 2) (_ : BitVec 3) (s : State) : Outcome := targetOf .testF6 s

/-- F7H with REG = 1, an alias of TEST (41_undocumented_opcodes.md R136). -/
def execTestF7Reg1 (_ : BitVec 2) (_ : BitVec 3) (s : State) : Outcome := targetOf .testF7 s

end Sys2Proof.Machine
end

