-- ==== Sys2Proof/Machine/Dispatch.lean ====
section
/-! DEFINITION. The meaning of each instruction, one arm per constructor. -/

namespace Sys2Proof.Machine

def exec (i : Instr) (s : State) : Host.Outcome State Fault Refusal :=
  match i with
  | .loadall => Sys2Proof.Machine.execLoadall s
  | .op0F04 => Sys2Proof.Machine.execOp0F04 s
  | .alias82 m x r => Sys2Proof.Machine.execAlias82 m x r s
  | .grp80 m x r => Sys2Proof.Machine.execGrp80 m x r s
  | .shiftD0Reg6 m r => Sys2Proof.Machine.execShiftD0Reg6 m r s
  | .shiftD1Reg6 m r => Sys2Proof.Machine.execShiftD1Reg6 m r s
  | .opD6 => Sys2Proof.Machine.execOpD6 s
  | .pfxF1 => Sys2Proof.Machine.execPfxF1 s
  | .testF6Reg1 m r => Sys2Proof.Machine.execTestF6Reg1 m r s
  | .testF7Reg1 m r => Sys2Proof.Machine.execTestF7Reg1 m r s
  | .testF6Reg0 m r => Sys2Proof.Machine.execTestF6Reg0 m r s
  | .testF7Reg0 m r => Sys2Proof.Machine.execTestF7Reg0 m r s

end Sys2Proof.Machine
end

