-- ==== Sys2Proof/Machine/Extension.lean ====
section
/-! DEFINITION. What the spec says of the processor extension: ESC, WAIT, FSETPM, FNINIT, exceptions 7 and 9, vector 16
and the data transfers (42_other_instructions.md R165 to R172; 20_memory.md R59). The step reaches the data transfers
(an input of the environment); no row of the opcode table reaches the rest (42_other_instructions.md R150). `len` is the
length of the instruction (log 51). -/

namespace Sys2Proof.Machine

/-- The vector of numeric errors (42_other_instructions.md R172). -/
def numericErrorVector : Byte := 16

/-- The 80287 after exception 9 until FNINIT: nothing is known of it (42_other_instructions.md R168; U25: "80287 state any
value until FNINIT"), but that only its RESET pin reenters real mode (R169). `old` is the 80287 before the instruction, `new`
what the instruction makes of one that works. -/
def unsettledPx (n : Nat) (old new : Px) : Px where
  protectedMode := old.protectedMode || (new.protectedMode && Config.freeBit n)
  allEmpty := Config.freeBit (n + 1)
  top := (Config.freeWord n).toNat
  allMasked := Config.freeBit (n + 2)
  needsInit := true
  instrPtr := Config.freeWord (n + 1) ++ Config.freeWord (n + 2)
  dataPtr := Config.freeWord (n + 3) ++ Config.freeWord (n + 4)
  busy := Config.freeBit (n + 3)

/-- The end of a WAIT or ESC instruction begun with the 80287 `old`: where FNINIT had to come first the 80287 is any
(U25), else it is as the instruction leaves it. -/
def settlePx (old : Px) (t : State) : State :=
  if old.needsInit then { t with px := unsettledPx t.draws old t.px, draws := t.draws + 5 } else t

/-- Before an ESC instruction: exception 7 if TS is set (42_other_instructions.md R165), interrupt 16 if the ERROR signal is
active (R172); then the instruction. One other than FNINIT that comes before the FNINIT that exception 9 calls for runs, and
leaves the 80287 any (R168, U25). The order of the two checks is the model's choice (log 45), and so is that MP and EM take
no part: the source does not say which (R165; log 52). -/
def escCheck (fninit : Bool) (body : State → Outcome) (s : State) : Outcome :=
  if mswTs s.regs.msw then .next (takeException 7 none s)
  else if s.now.error then .next (takeInterrupt numericErrorVector s)
  else if fninit then body s
  else mapNext (settlePx s.px) (body s)

/-- WAIT: interrupt 16 if the ERROR signal is active (42_other_instructions.md R172); while the 80287 is at work it waits, IP
where it is (20_memory.md R66); else it has no effect (R171). Whether it raises exception 7 with TS set is not in the source
(R165; 60_exceptions.md R230): a constant without a body says it, and MP and EM take no part (log 52). Before the FNINIT
that exception 9 calls for it runs, and the 80287 is any (R168, U25). That ERROR is looked at before the 80287's work, so that
such a WAIT does not wait, is the model's choice (log 55). -/
def waitOp (len : Nat) (s : State) : Outcome :=
  if mswTs s.regs.msw && Config.waitTrapsOnTs then .next (takeException 7 none s)
  else if s.now.error then .next (takeInterrupt numericErrorVector s)
  else if s.px.busy then .next (settlePx s.px s)
  else .next (settlePx s.px (advance len s))

/-- FNINIT: the 80287 is idle, its data registers empty, its top of stack 0, its errors masked (42_other_instructions.md
R168). That it keeps the 80287's two pointers is the model's choice (log 28). -/
def fninitOp (len : Nat) (s : State) : Outcome :=
  escCheck true (fun s => .next (advance len { s with
    px := { s.px with allEmpty := true, top := 0, allMasked := true, needsInit := false, busy := false } })) s

/-- FSETPM: the 80287 is in protected mode (42_other_instructions.md R169). -/
def fsetpmOp (len : Nat) (s : State) : Outcome :=
  escCheck false (fun s => .next (advance len { s with px := { s.px with protectedMode := true } })) s

/-- A pointer the 80287 keeps, from the visible part of a segment register and an offset: a 20-bit address in real mode, a
32-bit virtual pointer in protected mode (42_other_instructions.md R170; log 49). -/
def pxPointer (px : Px) (visible off : Word) : BitVec 32 :=
  if px.protectedMode then visible ++ off
  else ((visible.zeroExtend 20 <<< 4) + off.zeroExtend 20).zeroExtend 32

/-- The 80287 at work on an ESC instruction with an operand at `off` of `x`: it keeps the pointers to the instruction,
prefixes included, and to the operand (42_other_instructions.md R170). What the instruction makes of the empty mark, the top
of stack and the error masks is not in the source: free values (log 28). -/
def startEsc (x : SegReg) (off : Word) (s : State) : State :=
  { s with
    px := { s.px with
      allEmpty := Config.freeBit s.draws
      top := (Config.freeWord s.draws).toNat
      allMasked := Config.freeBit (s.draws + 1)
      instrPtr := pxPointer s.px s.regs.cs s.regs.ip
      dataPtr := pxPointer s.px (s.regs.seg x) off
      busy := true }
    draws := s.draws + 2 }

/-- An ESC instruction with a memory operand: the first word is checked before anything is sent to the 80287
(42_other_instructions.md R166). That this check comes after those of TS and ERROR is the model's choice: their order is not
in the source (log 45). What the 80287 computes is not in the source, nor is when the first word is transferred: that it is a
transfer of the environment, as the later words are, is the model's choice (log 27). FSTSW and FSTCW are `escStore`. -/
def escMemory (x : SegReg) (off : Word) (k : Kind) (len : Nat) (s : State) : Outcome :=
  escCheck false (fun s =>
    match segAccess x off.toNat 2 k false s with
    | .error st => raise st s
    | .ok _ => .next (advance len (startEsc x off s))) s

/-- The 80287 after exception 9: it must be forced idle, its status is unspecified, and its pointers point at the failing
instruction (42_other_instructions.md R167, R168; U25). -/
def overrunPx (n : Nat) (px : Px) : Px :=
  { px with
    allEmpty := Config.freeBit n, top := (Config.freeWord n).toNat, allMasked := Config.freeBit (n + 1), needsInit := true
    busy := Config.freeBit (n + 2) }

/-- What a transfer that raised exception 9 may have written, which is unspecified (60_exceptions.md R239, R247; U21; log 53):
of a word to be written, the bytes within the limit. -/
def PxTransfer.loose (t : PxTransfer) (s : State) : List (Addr × Byte) :=
  match t.write with
  | some _ => looseBytes t.seg t.off 2 s
  | none => []

/-- Exception 9 of a transfer, delivered asynchronously: the saved CS:IP is wherever the processor is
(42_other_instructions.md R167). What the transfer may have written reaches memory during the step (20_memory.md R62). -/
def overrun (t : PxTransfer) (s : State) : State :=
  writeDuringStep (t.loose s)
    { takeException 9 none s with px := overrunPx (s.draws + 2) s.px, draws := s.draws + 5 }

/-- The kind of reference a transfer makes. -/
def PxTransfer.kind (t : PxTransfer) : Kind :=
  match t.write with
  | some _ => .write
  | none => .read

/-- A data transfer of the processor extension after its operand's first word, through the descriptor caches
(20_memory.md R59, R49; log 27). What it writes reaches memory during the step (R62). A later word beyond the limit raises
exception 9; one that fails the valid bit or the rights raises the exception of that check, and the saved CS:IP of either is
that of the boundary, after the ESC instruction: for the latter the source does not say, the model's choice (log 27). -/
def transferOp (t : PxTransfer) (s : State) : Outcome :=
  match segAccess t.seg t.off 2 t.kind true s with
  | .ok a =>
    match t.write with
    | some v => .next (writeDuringStep (wordBytes a v) s)
    | none => .next s
  | .error st => if st = .exception 9 none then .next (overrun t s) else raise st s

/-- The transfer the environment presents in this step, if any. -/
def transferPhase (s : State) : Outcome :=
  match s.now.transfer with
  | none => .next s
  | some t => transferOp t s

end Sys2Proof.Machine
end

