-- ==== Sys2Proof/Machine/Fetch.lean ====
section
/-! DEFINITION. Fetching and decoding the instruction at CS:IP (10_state.md R12; 30_encoding.md R92), and placing one
there. -/

namespace Sys2Proof.Machine

/-- What the bytes at CS:IP give. -/
inductive Fetched where
  | instr (i : Instr)
  | stop (st : Stop)
deriving DecidableEq, Repr

/-- A decoded instruction, refused when with its prefixes it is longer than MAX_INSN_LEN (30_encoding.md R84, D23). -/
def checkLength (i : Instr) (n : Nat) (s : State) : Fetched :=
  if lengthAllowed s.params.maxInsnLen (s.prefixes + n) then .instr i else .stop (.refuse .instructionTooLong)

/-- The decoder's answer to two bytes. -/
def decodedTwo (b c : Byte) (s : State) : Fetched :=
  match decode [b, c] with
  | .instr i n => checkLength i n s
  | .refuse e => .stop (.refuse (.notInSource e))
  | .more => .stop (.refuse (.notInSource (.opcodeNotInSource b)))

/-- The instruction after the F1H bytes already consumed; a second byte is fetched only if the first calls for one
(30_encoding.md R84, R92). The length is looked at when the bytes have been fetched: that a byte which would make the
instruction too long, and cannot be fetched, raises the exception of its fetch is the model's choice (log 16). So is that
80H and 82H are refused by name only when their second byte has been fetched, where R92 names the opcode byte alone (log
38). -/
def fetchDecode (s : State) : Fetched :=
  match fetchByte s.prefixes s with
  | .error st => .stop st
  | .ok b =>
    match decode [b] with
    | .instr i n => checkLength i n s
    | .refuse e => .stop (.refuse (.notInSource e))
    | .more =>
      match fetchByte (s.prefixes + 1) s with
      | .error st => .stop st
      | .ok c => decodedTwo b c s

/-- The physical address from which the next step fetches, checks aside. -/
def fetchBase (s : State) : Addr :=
  s.regs.csCache.base + s.regs.ip.zeroExtend 24 + BitVec.ofNat 24 s.prefixes

/-- Memory with bytes stored from an address on. -/
def placeBytes : Memory → Addr → List Byte → Memory
  | m, _, [] => m
  | m, a, b :: bs => placeBytes (m.setByte a b) (a + 1) bs

/-- The state with bytes stored where the next step fetches, and nothing prefetched in their stead. -/
def placeCode (bs : List Byte) (s : State) : State :=
  { s with mem := placeBytes s.mem (fetchBase s) bs, prefetch := [] }

end Sys2Proof.Machine
end

