-- ==== Sys2Proof/Machine/Step.lean ====
section
/-! DEFINITION. One step of the machine, and the placing of an instruction where the next step fetches. -/

namespace Sys2Proof.Machine

/-- The instruction at CS:IP is fetched, decoded and executed. -/
def runInstruction (s : State) : Outcome :=
  match fetchDecode s with
  | .instr i => exec i s
  | .stop st => raise st s

/-- An instruction boundary with no outcome pending: an enabled interrupt (60_exceptions.md R242, R244), or the
instruction. -/
def interruptOrInstruction (s : State) : Outcome :=
  match enabledInterrupt s with
  | none => runInstruction s
  | some v => interruptFirst v s (runInstruction s)

/-- The processor extension's transfer, then, unless it raised an exception, an interrupt or the instruction. -/
def boundary (s : State) : Outcome :=
  andThen (transferPhase s) fun t => if t.event.isSome then .next t else interruptOrInstruction t

/-- What the processor does in a step whose input has been sampled: RESET before all, nothing while stopped, the handler
of a pending outcome, else the boundary. -/
def processorStep (s : State) : Outcome :=
  if s.now.reset then .next (resetProcessor s)
  else if s.stopped then .next (idleStopped s)
  else if s.event.isSome then .next (enterHandler s)
  else boundary s

/-- One step: the input is sampled, the processor acts, other bus masters' writes take effect. -/
def step (s : State) : Host.Outcome State Fault Refusal := mapNext finishStep (processorStep (sampleInput s))

/-- The state with the instruction whose table bits are `w` stored where the next step fetches (log 35, log 36). -/
def State.withFetchWord (s : State) (nbits w : Nat) : State := placeCode (tableBytes nbits w) s

end Sys2Proof.Machine
end

