-- ==== Sys2Proof/Machine/Arithmetic.lean ====
section
/-! DEFINITION. What the spec says of pushes, shift counts, DIV, IDIV and the divide error (42_other_instructions.md R152 to
R155; 60_exceptions.md R230). No row of the opcode table reaches these operations (42_other_instructions.md R150). `len` is
the length of the instruction (log 51). -/

namespace Sys2Proof.Machine

/-- A push of a word: SP less 2, and the word at the new SS:SP (42_other_instructions.md R152; log 48). A stop saves the
IP given; the state is the one before (60_exceptions.md R239: exception 12). -/
def pushAt (v : Word) (len : Nat) (savedIp : Word) (s : State) : Outcome :=
  match segWriteWord .ss (s.regs.sp - 2) v len s with
  | .ok t => .next (advance len { t with regs := { t.regs with sp := s.regs.sp - 2 } })
  | .error st => raiseAt st savedIp s

/-- A push whose stop saves the CS:IP of the instruction. -/
def pushWord (v : Word) (len : Nat) (s : State) : Outcome := pushAt v len s.regs.ip s

/-- PUSH SP: the value pushed is SP before the instruction (42_other_instructions.md R152). -/
def pushSp (len : Nat) (s : State) : Outcome := pushWord s.regs.sp len s

/-- The count of a shift or rotate: its low 5 bits (42_other_instructions.md R153). -/
def shiftCount (c : Byte) : BitVec 5 := c.extractLsb' 0 5

/-- The quotient of IDIV, `w` bits, from the exact one, if it fits: the most negative number does
(42_other_instructions.md R154). -/
def idivQuotient (w : Nat) (q : Int) : Option (BitVec w) :=
  if -(2 ^ (w - 1) : Int) ≤ q ∧ q < (2 ^ (w - 1) : Int) then some (BitVec.ofInt w q) else none

/-- The quotient of DIV, `w` bits, from the exact one, if it fits (60_exceptions.md R230; that it is unsigned is log 47). -/
def divQuotient (w q : Nat) : Option (BitVec w) := if q < 2 ^ w then some (BitVec.ofNat w q) else none

/-- The divide error: vector 0 (log 47); it points at the instruction, prefixes included, and no register has changed
(42_other_instructions.md R155). -/
def divideError (s : State) : State := takeException 0 none s

/-- A division of `len` bytes: the divide error where the quotient does not fit, else the instruction completes with it, as
`complete` says: its registers are not in the source (42_other_instructions.md R154). -/
def divisionOp {w : Nat} (q : Option (BitVec w)) (len : Nat) (complete : BitVec w → State → State) (s : State) : Outcome :=
  match q with
  | some v => .next (advance len (complete v s))
  | none => .next (divideError s)

/-- IDIV with the exact quotient `q` (42_other_instructions.md R154, R155). -/
def idivOp (w : Nat) (q : Int) (len : Nat) (complete : BitVec w → State → State) (s : State) : Outcome :=
  divisionOp (idivQuotient w q) len complete s

/-- DIV with the exact quotient `q` (60_exceptions.md R230; 42_other_instructions.md R155). -/
def divOp (w q len : Nat) (complete : BitVec w → State → State) (s : State) : Outcome :=
  divisionOp (divQuotient w q) len complete s

end Sys2Proof.Machine
end

