-- ==== Sys2Proof/Machine/Privileged.lean ====
section
/-! DEFINITION. What the spec says of the IOPL-sensitive instructions, POPF, PUSHF, INT and the undefined opcode
(42_other_instructions.md R156 to R162; 60_exceptions.md R254; 41_undocumented_opcodes.md R130). No row of the opcode
table reaches these operations (42_other_instructions.md R150). `len` is the length of the instruction (log 51). -/

namespace Sys2Proof.Machine

/-- Whether the IOPL rule denies an instruction: in protected mode where CPL is greater than IOPL, never in real mode;
`none` where CPL is unspecified and the candidates differ (60_exceptions.md R254). -/
def ioplDenied (s : State) : Option Bool :=
  if s.isProtected then s.askCpl fun l => decide (s.iopl < l) else some false

/-- `IOPLcheck` before an instruction's own effect: exception 13 with error code 0 where it is denied (60_exceptions.md
R254). -/
def ioplCheck (body : State → Outcome) (s : State) : Outcome :=
  match ioplDenied s with
  | none => .refused .cplUnspecified
  | some true => .next (protectionException 0 s)
  | some false => body s

/-- STI or CLI past its check: IF is set or cleared. -/
def writeIf (b : Bool) (len : Nat) (s : State) : State :=
  advance len { s with regs := { s.regs with flags := setFlagIf b s.regs.flags } }

/-- STI: IF is set if the IOPL rule allows (42_other_instructions.md R156). -/
def stiOp (len : Nat) (s : State) : Outcome := ioplCheck (fun s => .next (writeIf true len s)) s

/-- CLI: IF is cleared if the IOPL rule allows (42_other_instructions.md R156). -/
def cliOp (len : Nat) (s : State) : Outcome := ioplCheck (fun s => .next (writeIf false len s)) s

/-- The LOCK prefix before an instruction: the IOPL rule, and then that instruction (42_other_instructions.md R157). What LOCK
guarantees where it is permitted is not in the source (R157; 20_memory.md R67): that the instruction then does what it does
without LOCK is the model's choice (log 56). -/
def lockOp (body : State → Outcome) (s : State) : Outcome := ioplCheck body s

/-- Whether a port is reserved for the 80287, 00F8H to 00FFH (20_memory.md R42). -/
def reservedPort (p : Word) : Bool := decide (0x00F8 ≤ p.toNat) && decide (p.toNat ≤ 0x00FF)

/-- IN and OUT: the IOPL rule (42_other_instructions.md R156); the access itself is to a device the source does not describe,
and the reserved ports must not be used (20_memory.md R42; log 42). The source does not say how wide a transfer is: that the
port number alone decides whether it is to a reserved port is the model's choice. INS and OUTS are `stringOp`. -/
def portOp (p : Word) (s : State) : Outcome :=
  ioplCheck (fun _ => if reservedPort p then .refused .reservedPort else .refused .portDeviceNotInSource) s

/-- POPF: the flags take the word popped by their rules, which raise no exception (42_other_instructions.md R159, R160). That
this new flag word of R159 is the one at SS:SP, a stack operation of 20_memory.md R45, and that SP is 2 more, is
PRESUMED (log 48). -/
def popfOp (len : Nat) (s : State) : Outcome :=
  match segReadWord .ss s.regs.sp s with
  | .error st => raise st s
  | .ok v =>
    match popFlags v s with
    | none => .refused .cplUnspecified
    | some fl => .next (advance len { s with regs := { s.regs with flags := fl, sp := s.regs.sp + 2 } })

/-- The flag word as PUSHF and INT save it: the named fields as held, the other bits unspecified (42_other_instructions.md
R159; D7; log 43). -/
def savedFlags (s : State) : Word := withBits maskNamedFlags s.regs.flags (Config.freeWord s.draws)

/-- PUSHF: the flag word is pushed (42_other_instructions.md R159; log 48). -/
def pushfOp (len : Nat) (s : State) : Outcome := pushWord (savedFlags s) len { s with draws := s.draws + 1 }

/-- MSW as an instruction reads it: the named bits as held, the others unspecified (10_state.md R14; D7; log 43). -/
def savedMsw (s : State) : Word := withBits maskNamedMsw s.regs.msw (Config.freeWord s.draws)

/-- INT `v` of `len` bytes whose IDT gate has the DPL `gate`: in protected mode exception 13, naming the vector, where the
DPL is less than CPL; else the interrupt, with the CS:IP of the next instruction (42_other_instructions.md R162; log 40). -/
def intOp (v : Byte) (gate : Level) (len : Nat) (s : State) : Outcome :=
  if s.isProtected then
    match s.askCpl (fun l => decide (gate < l)) with
    | none => .refused .cplUnspecified
    | some true => .next (protectionException (vectorErrorCode v) s)
    | some false => .next (takeInterruptAt v (nextIp len s) s)
  else .next (takeInterruptAt v (nextIp len s) s)

/-- An undefined opcode raises exception 6, in either mode (41_undocumented_opcodes.md R130). Which opcodes are undefined
is not in the source, so the decoder never asks for it (30_encoding.md R87). -/
def undefinedOpcode (s : State) : State := takeException 6 none s

end Sys2Proof.Machine
end

