-- ==== Sys2Proof/Machine/Restart.lean ====
section
/-! DEFINITION. What the spec says of restarting an instruction after an exception (42_other_instructions.md R173 to R181;
60_exceptions.md R239) and of the saved state on the A1 and B1 steppings (70_reset_and_hazards.md R291 to R294): the
instructions it names make their memory references in the order it gives. No row of the opcode table reaches these operations
(42_other_instructions.md R150). `len` is the length of the instruction (log 51). -/

namespace Sys2Proof.Machine

/-- The cases for which the source says whether the exception is restartable (60_exceptions.md R239). -/
inductive FaultCase where
  | invalidCache | segmentLoad | nullSelector | iopl | divideError | escFirstWord
  | limitInGeneral | limitSimpleLoadStore | exception12 | exception9 | stringInstruction | writeProtectedReadModifyWrite
  | loadallPrivilege
deriving DecidableEq, Repr

/-- What the source says of restarting. -/
inductive Restart where
  | yes | no | mostly
  /-- The handler must emulate the instruction. -/
  | byEmulation
  /-- The handler must first correct SI, DI and CX. -/
  | afterCorrection
deriving DecidableEq, Repr

/-- The table of 60_exceptions.md R239. -/
def restartable : FaultCase → Restart
  | .invalidCache => .yes
  | .segmentLoad => .yes
  | .nullSelector => .yes
  | .iopl => .yes
  | .divideError => .yes
  | .escFirstWord => .yes
  | .limitInGeneral => .no
  | .limitSimpleLoadStore => .mostly
  | .exception12 => .byEmulation
  | .exception9 => .no
  | .stringInstruction => .afterCorrection
  | .writeProtectedReadModifyWrite => .no
  | .loadallPrivilege => .yes

/-- The registers XCHG, ADC, SBB, RCL or RCR may have written when a reference stops it: its register operand and the
flags. -/
def looseOperand (x : Reg) (s : State) : State :=
  { s with
    regs := { (s.regs.setGpr x (Config.freeWord s.draws)) with flags := Config.freeWord (s.draws + 1) }
    draws := s.draws + 2 }

/-- XCHG, ADC, SBB, RCL or RCR with a memory operand in a write protected segment: exception 13, the register operand and
the flags unspecified (42_other_instructions.md R173, U26). -/
def notRestartableFault (x : Reg) (s : State) : State := takeException 13 zeroCode (looseOperand x s)

/-- XCHG, ADC, SBB, RCL or RCR with the register operand `r` and a memory operand of `n` bytes: the operand is read, and then
written, which a write protected segment refuses too late to restart (42_other_instructions.md R173). Beyond the limit, the
register, the flags and the operand's bytes within the limit are unspecified (60_exceptions.md R239; U21; log 53). What the
instruction computes is not in the source: `complete` says it, from the operand's address. -/
def readModifyWrite (x : SegReg) (off : Word) (n : Nat) (r : Reg) (len : Nat) (complete : Addr → State → State)
    (s : State) : Outcome :=
  match segAccess x off.toNat n .read false s with
  | .error st => raiseLoose x off.toNat n st s.regs.ip (fun s => looseOperand r (looseWrite x off.toNat n len s)) s
  | .ok _ =>
    match segAccess x off.toNat n .write false s with
    | .error st =>
      if rights x (s.regs.cache x) .write = .denied then .next (notRestartableFault r s) else raise st s
    | .ok a => .next (advance len (complete a s))

/-! ### The saved CS:IP of the A1 and B1 steppings (70_reset_and_hazards.md R291 to R293) -/

/-- The A1 and B1 steppings. -/
def isEarly (s : State) : Bool := s.params.stepping != .later

/-- A null selector in a segment register, whose invalid cache stops every reference (70_reset_and_hazards.md R291, R292). That
the selectors 0000H to 0003H beside a valid cache, which only LOADALL leaves, are none is the model's choice (log 57). -/
def holdsNull (x : SegReg) (s : State) : Bool :=
  s.isProtected && nullSelector (s.regs.seg x) && !(s.regs.cache x).valid

/-- A null selector in the segment register of a reference, or a limit violation (70_reset_and_hazards.md R292). -/
def nullOrLimit (x : SegReg) (off n : Nat) (s : State) : Bool := holdsNull x s || limitViolated x off n s

/-- The saved IP of a fault: where `early` says that the case is one of the errata, A1 and B1 save that of the next
instruction; else it is the instruction's own, prefixes included. -/
def savedIpOf (early : Bool) (len : Nat) (s : State) : Word :=
  if isEarly s && early then nextIp len s else s.regs.ip

/-- POP to memory: the word at SS:SP is read and written to the destination, and SP is 2 more (log 48). A destination that is
null or beyond the limit saves the CS:IP that the stepping gives (70_reset_and_hazards.md R292); beyond the limit, SP and the
destination are unspecified (log 53). -/
def popToMemory (x : SegReg) (off : Word) (len : Nat) (s : State) : Outcome :=
  match segReadWord .ss s.regs.sp s with
  | .error st => raise st s
  | .ok v =>
    match segWriteWord x off v len s with
    | .error st =>
      raiseLoose x off.toNat 2 st (savedIpOf (nullOrLimit x off.toNat 2 s) len s)
        (fun s => looseReg .sp (looseWrite x off.toNat 2 len s)) s
    | .ok t => .next (advance len { t with regs := { t.regs with sp := s.regs.sp + 2 } })

/-- PUSH from memory: the operand is read and pushed. A violation of the stack limit saves the CS:IP that the stepping gives
(70_reset_and_hazards.md R293). That this concerns the push alone, and an operand read through an SS override beyond the limit
saves the CS:IP of the instruction on every stepping, is the model's choice (log 57). An operand beyond the limit of another
segment leaves SP and the stack word unspecified (60_exceptions.md R239; U21; log 53). -/
def pushFromMemory (x : SegReg) (off : Word) (len : Nat) (s : State) : Outcome :=
  match segReadWord x off s with
  | .error st =>
    raiseLoose x off.toNat 2 st s.regs.ip (fun s => looseReg .sp (looseWrite .ss (s.regs.sp - 2).toNat 2 len s)) s
  | .ok v => pushAt v len (savedIpOf (limitViolated .ss (s.regs.sp - 2).toNat 2 s) len s) s

/-- FSTSW, FNSTSW, FSTCW, FNSTCW: the word stored is the 80287's, which the source does not give. A destination that is null
or beyond the limit saves the CS:IP that the stepping gives (70_reset_and_hazards.md R292); nothing else has changed
(42_other_instructions.md R166). When the word reaches memory is not in the source: that it is stored in the instruction's own
step, not by a transfer as in `escMemory`, and that the 80287 is at work after it all the same, is the model's choice (log
27). -/
def escStore (x : SegReg) (off : Word) (len : Nat) (s : State) : Outcome :=
  escCheck false (fun s =>
    match segWriteWord x off (Config.freeWord s.draws) len { s with draws := s.draws + 1 } with
    | .error st => raiseAt st (savedIpOf (nullOrLimit x off.toNat 2 s) len s) s
    | .ok t => .next (advance len (startEsc x off t))) s

/-! ### String instructions (42_other_instructions.md R175 to R181; 60_exceptions.md R244; 70_reset_and_hazards.md R294) -/

/-- The string instructions of 42_other_instructions.md R176 to R181. -/
inductive StringOp where
  | stos | ins | scas | outs | movs | cmps
deriving DecidableEq, Repr

/-- The index and count registers of a string instruction. -/
structure StringRegs where
  si : Word
  di : Word
  cx : Word
deriving DecidableEq, Repr

/-- What the handler knows of a string instruction that raised exception 12 or 13 (42_other_instructions.md R175). -/
structure StringFault where
  op : StringOp
  /-- Word operands, else bytes. -/
  wide : Bool
  repeated : Bool
  df : Bool
  /-- INS: the exception was an invalid IOPL during the first I/O read. -/
  ioplFirst : Bool
  /-- MOVS: the source operand caused the exception. CMPS: the ES:DI operand did. -/
  namedOperand : Bool
  /-- The exception was a segment limit violation or an IOPL violation (70_reset_and_hazards.md R294). -/
  limitOrIopl : Bool
deriving DecidableEq, Repr

/-- The correction of an index register, +2, +1, -1 or -2 by DF and the operand size; which sign a value of DF takes is not
in the source (42_other_instructions.md R175, N17; log 41). -/
def indexStep (f : StringFault) : Word :=
  let size : Word := if f.wide then 2 else 1
  if Config.restartUpwards f.df then size else -size

/-- The correction of SI (42_other_instructions.md R176 to R181; SCAS as the source words it, C7). -/
def siFix (f : StringFault) : Word :=
  match f.op with
  | .stos => 0
  | .ins => 0
  | .scas => indexStep f
  | .outs => indexStep f
  | .movs => indexStep f
  | .cmps => if f.namedOperand then 0 else indexStep f

/-- The correction of DI (42_other_instructions.md R176 to R181). -/
def diFix (f : StringFault) : Word :=
  match f.op with
  | .stos => indexStep f
  | .ins => indexStep f
  | .scas => 0
  | .outs => 0
  | .movs => if f.namedOperand then 0 else indexStep f
  | .cmps => indexStep f

/-- The correction of CX: how often it is incremented if the instruction was repeated (42_other_instructions.md R176 to
R181). -/
def cxFix (f : StringFault) : Word :=
  if f.repeated then
    match f.op with
    | .stos => 2
    | .ins => if f.ioplFirst then 1 else 2
    | .scas => 2
    | .outs => 2
    | .movs => if f.namedOperand then 1 else 2
    | .cmps => if f.namedOperand then 1 else 2
  else 0

/-- Whether the saved CX is that of the start of the instruction: a repeated one stopped by a limit or IOPL violation on A1
or B1 (70_reset_and_hazards.md R294). The corrections of CX are written for the other cases. -/
def cxFromStart (st : Stepping) (f : StringFault) : Bool := st != .later && f.repeated && f.limitOrIopl

/-- The registers with which the handler restarts the string instruction (42_other_instructions.md R175 to R181). -/
def restartRegs (st : Stepping) (f : StringFault) (r : StringRegs) : StringRegs where
  si := r.si + siFix f
  di := r.di + diFix f
  cx := if cxFromStart st f then r.cx else r.cx + cxFix f

/-- SI, DI and CX as the handler finds them, from those with which the failing iteration began (42_other_instructions.md
R175; 70_reset_and_hazards.md R294): `startCx` is CX at the start of the instruction. -/
def savedRegs (st : Stepping) (f : StringFault) (startCx : Word) (r : StringRegs) : StringRegs where
  si := r.si - siFix f
  di := r.di - diFix f
  cx := if cxFromStart st f then startCx else r.cx - cxFix f

/-- One iteration of a string instruction. -/
structure StringInstr where
  op : StringOp
  wide : Bool
  repeated : Bool
  /-- The segment register of the operand at SI: DS, or that of an override. -/
  src : SegReg
  /-- The length of the instruction, prefixes included. -/
  len : Nat
  /-- CX at the start of the instruction, before its first iteration. -/
  startCx : Word
  /-- What STOS or INS stores: the source does not give where it comes from. -/
  data : Word
  /-- The port of INS or OUTS (20_memory.md R42). -/
  port : Word
  /-- Another iteration follows a repeated one: the condition is not in the source. -/
  more : Bool
deriving DecidableEq, Repr

/-- A memory reference of a string instruction. -/
structure StringRef where
  seg : SegReg
  off : Word
  kind : Kind
deriving DecidableEq, Repr

/-- The size of an operand in bytes. -/
def StringInstr.size (i : StringInstr) : Nat := if i.wide then 2 else 1

/-- The references of an iteration, the first one first: MOVS reads its source before it writes ES:DI, CMPS reads ES:DI
first (60_exceptions.md R244). That SCAS reads ES:DI is PRESUMED (G19; log 54). -/
def StringInstr.refs (i : StringInstr) (r : Regs) : List StringRef :=
  match i.op with
  | .stos => [⟨.es, r.di, .write⟩]
  | .ins => [⟨.es, r.di, .write⟩]
  | .scas => [⟨.es, r.di, .read⟩]
  | .outs => [⟨i.src, r.si, .read⟩]
  | .movs => [⟨i.src, r.si, .read⟩, ⟨.es, r.di, .write⟩]
  | .cmps => [⟨.es, r.di, .read⟩, ⟨i.src, r.si, .read⟩]

/-- The addresses of the references, or the first one that stops the instruction, how many came before it, and why. -/
def refAddrs (n : Nat) (s : State) : Nat → List StringRef → Except (Nat × StringRef × Stop) (List Addr)
  | _, [] => .ok []
  | k, r :: rs =>
    match segAccess r.seg r.off.toNat n r.kind false s with
    | .error st => .error (k, r, st)
    | .ok a => (refAddrs n s (k + 1) rs).map fun as => a :: as

/-- What is known of a fault of the iteration: whether it was the IOPL rule, else which reference by its place. -/
def StringInstr.fault (i : StringInstr) (iopl : Bool) (place : Nat) (limit : Bool) (s : State) : StringFault where
  op := i.op
  wide := i.wide
  repeated := i.repeated
  df := flagDf s.regs.flags
  ioplFirst := iopl
  namedOperand := place == 0
  limitOrIopl := iopl || limit

/-- The state in which a fault of the iteration is taken: SI, DI and CX are as the handler finds them
(42_other_instructions.md R175). -/
def withSavedRegs (i : StringInstr) (f : StringFault) (s : State) : State :=
  let r := savedRegs s.params.stepping f i.startCx { si := s.regs.si, di := s.regs.di, cx := s.regs.cx }
  { s with regs := { s.regs with si := r.si, di := r.di, cx := r.cx } }

/-- Whether a fault at this reference is the erratum of a MOVS or INS that is not repeated: ES null at a reference through ES,
the source of a MOVS with an ES override included, or ES:DI beyond the limit (70_reset_and_hazards.md R291; log 57). -/
def StringInstr.early (i : StringInstr) (r : StringRef) (s : State) : Bool :=
  !i.repeated && (i.op == .movs || i.op == .ins) && r.seg == .es &&
    (holdsNull .es s || (r.kind == .write && limitViolated .es r.off.toNat i.size s))

/-- The registers with which an iteration that a reference stopped reaches the handler: SI, DI and CX corrected
(42_other_instructions.md R175), but at an invalid cache those with which the iteration began, because it appears as not
attempted (10_state.md R19; 20_memory.md R46; 60_exceptions.md R239). That R19 and not R175 holds where both speak, of a string
instruction at an invalid cache, is the model's choice (log 54). -/
def stringStopRegs (i : StringInstr) (k : Nat) (r : StringRef) (s : State) : State :=
  if (s.regs.cache r.seg).valid then
    withSavedRegs i (i.fault false k (limitViolated r.seg r.off.toNat i.size s) s) s
  else s

/-- The iteration stopped at a reference. -/
def stringStop (i : StringInstr) (k : Nat) (r : StringRef) (st : Stop) (s : State) : Outcome :=
  raiseAt st (savedIpOf (i.early r s) i.len s) (stringStopRegs i k r s)

/-- The value of an operand at an address. -/
def StringInstr.load (i : StringInstr) (a : Addr) (m : Memory) : Word :=
  if i.wide then m.word a else (m.byte a).zeroExtend 16

/-- An operand stored at an address. -/
def StringInstr.store (i : StringInstr) (a : Addr) (v : Word) (s : State) : State :=
  storeMem i.len (fun m => if i.wide then m.setWord a v else m.setByte a (v.extractLsb' 0 8)) s

/-- What the references of the iteration do to memory: MOVS copies its source, STOS and INS store. -/
def StringInstr.effect (i : StringInstr) (as : List Addr) (s : State) : State :=
  match i.op, as with
  | .movs, [a, b] => i.store b (i.load a s.mem) s
  | .stos, [a] => i.store a i.data s
  | .ins, [a] => i.store a i.data s
  | _, _ => s

/-- The end of an iteration: IP advances over the instruction, unless another iteration of a repeated one follows (10_state.md
R12; log 54). -/
def stringEnd (i : StringInstr) (s : State) : State := if i.repeated && i.more then s else advance i.len s

/-- INS and OUTS obey the IOPL rule (42_other_instructions.md R158, R179), INS at its I/O read, before its memory write
(60_exceptions.md R244). -/
def StringInstr.usesPort (i : StringInstr) : Bool := i.op == .ins || i.op == .outs

/-- An I/O access of this instruction is to a reserved port, which must not be used (20_memory.md R42, U24;
70_reset_and_hazards.md R283). The width of a transfer is not in the source (R42): that a word at port 00F7H does not reach
the reserved port 00F8H is the model's choice, which asks for the port number alone (log 42). -/
def StringInstr.portReserved (i : StringInstr) (o : StringOp) : Bool := i.op == o && reservedPort i.port

/-- The references of the iteration, and then what else it does, which is not in the source (`complete`). OUTS writes to its
port when it has read its operand. -/
def stringRefs (i : StringInstr) (complete : State → State) (s : State) : Outcome :=
  match refAddrs i.size s 0 (i.refs s.regs) with
  | .error (k, r, st) => stringStop i k r st s
  | .ok as => if i.portReserved .outs then .refused .reservedPort else .next (stringEnd i (complete (i.effect as s)))

/-- One iteration of a string instruction (42_other_instructions.md R175 to R181): the IOPL rule for INS and OUTS, the
references in their order, and at a fault SI, DI and CX as the handler finds them. INS reads its port before its memory
write. That OUTS too is checked against IOPL before its memory operand is the model's choice: 60_exceptions.md R244 fixes the
order of INS alone (log 54). -/
def stringOp (i : StringInstr) (complete : State → State) (s : State) : Outcome :=
  if i.usesPort then
    match ioplDenied s with
    | none => .refused .cplUnspecified
    | some true => .next (protectionException 0 (withSavedRegs i (i.fault true 0 false s) s))
    | some false => if i.portReserved .ins then .refused .reservedPort else stringRefs i complete s
  else stringRefs i complete s

end Sys2Proof.Machine
end

