-- ==== Sys2Proof/Machine/Segments.lean ====
section
/-! DEFINITION. What the spec says of reading and loading segment registers and of control transfers (20_memory.md R53 to
R56, R68; 42_other_instructions.md R151, R184). No row of the opcode table reaches these operations
(42_other_instructions.md R150). `len` is the length of the instruction, prefixes included, by which IP advances
(10_state.md R12; log 51). -/

namespace Sys2Proof.Machine

/-- Reading a segment register: the visible part, whatever the cache holds, in any mode and at any level
(42_other_instructions.md R151). -/
def readSegReg (x : SegReg) (s : State) : Word := s.regs.seg x

/-- MOV AX,ES: AX takes the visible part of ES (42_other_instructions.md R151). -/
def movAxEs (len : Nat) (s : State) : State :=
  advance len { s with regs := s.regs.setGpr .ax (readSegReg .es s) }

/-- MOV AX,ES:[BX]: AX takes the word at ES:[BX] or the reference raises its exception (20_memory.md R46). A simple load that
violates the limit is restartable only mostly (60_exceptions.md R239; log 53): AX is then unspecified. -/
def movAxEsBx (len : Nat) (s : State) : Outcome :=
  match segReadWord .es s.regs.bx s with
  | .ok v => .next (advance len { s with regs := s.regs.setGpr .ax v })
  | .error st => raiseLoose .es s.regs.bx.toNat 2 st s.regs.ip (looseReg .ax) s

/-- A null selector loaded in protected mode: no exception on DS and ES, and any later reference faults (20_memory.md
R55); CS and SS are not said. `fin` is what follows the load. -/
def loadNull (x : SegReg) (v : Word) (fin : State → State) (s : State) : Outcome :=
  match x with
  | .ds => .next (fin { s with regs := s.regs.setSeg .ds v (nullCache s.draws), draws := s.draws + 1 })
  | .es => .next (fin { s with regs := s.regs.setSeg .es v (nullCache s.draws), draws := s.draws + 1 })
  | .cs => .refused .nullSelectorNotForCsSs
  | .ss => .refused .nullSelectorNotForCsSs

/-- A descriptor or none loaded by a selector that is not null in protected mode: exception 13 names the selector, or the
cache takes the descriptor (20_memory.md R54, R56). -/
def loadDescriptor (x : SegReg) (v : Word) (d : Option Cache) (fin : State → State) (s : State) : Outcome :=
  match s.askCpl (loadFails x v d) with
  | none => .refused .cplUnspecified
  | some true => .next (protectionException (selectorErrorCode v) s)
  | some false => .next (fin { s with regs := s.regs.setSeg x v (d.getD (s.regs.cache x)) })

/-- Loading a segment register: in real mode the paragraph id refills the cache (20_memory.md R53), in protected mode the
descriptor does (R54), or exception 13 names the selector (R56). `d` is the descriptor of the table entry `v` names, `none`
if there is none: the table formats are not in the source (log 30). -/
def loadSeg (x : SegReg) (v : Word) (d : Option Cache) (fin : State → State) (s : State) : Outcome :=
  if s.isProtected then
    if nullSelector v then loadNull x v fin s else loadDescriptor x v d fin s
  else .next (fin { s with regs := s.regs.setSeg x v (realCache v) })

/-- What follows a load of `x` by an instruction of `len` bytes: IP advances, and nothing stays prefetched if the load is of
CS (10_state.md R30). -/
def afterLoad (x : SegReg) (len : Nat) (s : State) : State :=
  if x = .cs then { advance len s with prefetch := [] } else advance len s

/-- A segment register load instruction (42_other_instructions.md R184). -/
def loadSegReg (x : SegReg) (v : Word) (d : Option Cache) (len : Nat) (s : State) : Outcome :=
  loadSeg x v d (afterLoad x len) s

/-- A jump within the code segment (20_memory.md R68: "Any program which jumps after modifing an instruction"). -/
def nearJump (target : Word) (s : State) : Outcome := .next (jumpTo target s)

/-- A far control transfer: CS is loaded like any segment register (42_other_instructions.md R184), IP is the target, and
nothing stays prefetched (20_memory.md R68). -/
def farTransfer (cs : Word) (d : Option Cache) (target : Word) (s : State) : Outcome :=
  loadSeg .cs cs d (jumpTo target) s

end Sys2Proof.Machine
end

