-- ==== Sys2Proof/Safety.lean ====
section
/-! DEFINITION. What a run may rely on: the well-formed states, the requirements on what LOADALL loads and on its area
(40_loadall.md R107, R110, R117, R118; 70_reset_and_hazards.md R274), and the values a supervisor builds
(43_loadall_usage.md R195 to R197). -/

namespace Sys2Proof.Machine

/-- The states a run of the machine stays in: memory in canonical form; no more bytes prefetched than PREFETCH_DEPTH
ahead of the F1H bytes consumed, unless an outcome is pending, whose handover empties the queue; no more F1H bytes consumed than the instruction's length allows, none of them beyond offset FFFFH; no instruction in progress
while an outcome is pending or the processor is stopped. -/
def State.wf (s : State) : Bool :=
  s.mem.wf
    && (s.event.isSome || decide (s.prefetch.length ≤ s.prefixes + s.params.prefetchDepth))
    && lengthAllowed s.params.maxInsnLen s.prefixes
    && decide (s.regs.ip.toNat + s.prefixes ≤ 2 ^ 16)
    && (s.event.isNone || s.prefixes == 0)
    && (!s.stopped || (s.prefixes == 0 && s.event.isNone))

/-- A step that has a meaning. -/
def SafeStep (s : State) : Prop := ∃ t, step s = .next t

/-- Item 1 of 40_loadall.md R117: the stack segment is a writable, valid data segment. -/
def Regs.stackOk (r : Regs) : Bool := r.ssCache.valid && r.ssCache.writableData

/-- Item 2 of 40_loadall.md R117: the code segment is valid and of one of the three types. -/
def Regs.codeOk (r : Regs) : Bool := r.csCache.valid && r.csCache.codeTypeListed

/-- Item 3 of 40_loadall.md R118: the DPL fields of the CS and SS caches are equal. -/
def Regs.dplsAgree (r : Regs) : Bool := r.csCache.dpl == r.ssCache.dpl

/-- Item 4 of 40_loadall.md R118: the DPL fields of the DS and ES caches are 3. -/
def Regs.dataDplsOk (r : Regs) : Bool := r.dsCache.dpl == 3 && r.esCache.dpl == 3

/-- What the area must satisfy for LOADALL to have a meaning: MSW bit 0 set in protected mode (40_loadall.md R110), byte 3
of the GDTR and IDTR entries zero (R107). -/
def areaOk (s : State) : Bool :=
  (!s.isProtected || (areaWord 0x06 s).getLsbD 0) && areaByte 0x51 s == 0 && areaByte 0x5D s == 0

/-- LOADALL and 0F04H may be executed: real mode, or CPL is 0 (40_loadall.md R102). -/
def mayExecuteLoadall (s : State) : Bool := !s.isProtected || (s.csDpl == 0 && s.ssDpl == 0)

/-- LOADALL and 0F04H raise exception 13: protected mode, and CPL is not 0 whichever field it is (40_loadall.md R102). -/
def mustRefuseLoadall (s : State) : Bool := s.isProtected && s.csDpl != 0 && s.ssDpl != 0

/-- The cache base a supervisor stores for the paragraph id `p` under the relocation factor `r` (43_loadall_usage.md
R197). -/
def relocatedBase (r : Addr) (p : Word) : Addr := r + (p.zeroExtend 24 <<< 4)

/-- A cache that keeps a program from addressing memory while its segment register stays readable (43_loadall_usage.md
R195): the valid bit zero. -/
def invalidated (c : Cache) : Cache := { c with access := c.access &&& 0x7F }

/-- The largest limit that keeps a segment based at `base` below the address `top` (43_loadall_usage.md R196). -/
def limitBelow (base : Addr) (top : Nat) : Word := BitVec.ofNat 16 (min 0xFFFF (top - 1 - base.toNat))

end Sys2Proof.Machine
end

