-- ==== Sys2Proof/Certificates/Slice0/Obligations.lean ====
section
/-! DEFINITION. The statements for the provers, and the few definitions they are stated with. -/

namespace Sys2Proof.Machine

/-! ### Words of the statements -/

/-- A descriptor cache entry of the area, byte by byte (40_loadall.md R106). -/
def imageCache (m : Memory) (a : Addr) : Cache where
  base := m.byte (a + 2) ++ m.byte (a + 1) ++ m.byte a
  access := m.byte (a + 3)
  limit := m.byte (a + 5) ++ m.byte (a + 4)

/-- A GDTR or IDTR entry of the area, byte by byte (40_loadall.md R107). -/
def imageTable (m : Memory) (a : Addr) : TableReg where
  base := m.byte (a + 2) ++ m.byte (a + 1) ++ m.byte a
  limit := m.byte (a + 5) ++ m.byte (a + 4)

/-- The table of 40_loadall.md R104: every register from its physical address. -/
def imageRegs (m : Memory) : Regs where
  msw := m.word 0x806
  tr := m.word 0x816
  flags := m.word 0x818
  ip := m.word 0x81A
  ldtr := m.word 0x81C
  ds := m.word 0x81E
  ss := m.word 0x820
  cs := m.word 0x822
  es := m.word 0x824
  di := m.word 0x826
  si := m.word 0x828
  bp := m.word 0x82A
  sp := m.word 0x82C
  bx := m.word 0x82E
  dx := m.word 0x830
  cx := m.word 0x832
  ax := m.word 0x834
  esCache := imageCache m 0x836
  csCache := imageCache m 0x83C
  ssCache := imageCache m 0x842
  dsCache := imageCache m 0x848
  gdtr := imageTable m 0x84E
  ldtCache := imageCache m 0x854
  idtr := imageTable m 0x85A
  tssCache := imageCache m 0x860

/-- The 16 word registers LOADALL loads besides MSW, each with its address in the area (40_loadall.md R104). -/
def wordEntries (r : Regs) : List (Addr × Word) :=
  [(0x816, r.tr), (0x818, r.flags), (0x81A, r.ip), (0x81C, r.ldtr), (0x81E, r.ds), (0x820, r.ss), (0x822, r.cs),
    (0x824, r.es), (0x826, r.di), (0x828, r.si), (0x82A, r.bp), (0x82C, r.sp), (0x82E, r.bx), (0x830, r.dx),
    (0x832, r.cx), (0x834, r.ax)]

/-- The descriptor caches LOADALL loads, each with its address in the area (40_loadall.md R104). -/
def cacheEntries (r : Regs) : List (Addr × Cache) :=
  [(0x836, r.esCache), (0x83C, r.csCache), (0x842, r.ssCache), (0x848, r.dsCache), (0x854, r.ldtCache), (0x860, r.tssCache)]

/-- The table registers LOADALL loads, each with its address in the area (40_loadall.md R104). -/
def tableEntries (r : Regs) : List (Addr × TableReg) := [(0x84E, r.gdtr), (0x85A, r.idtr)]

/-- A word read at `a` during a step is the one before or the one after the other agents' writes of the step
(40_loadall.md R120). -/
def OldOrNew (s : State) (a : Addr) (w : Word) : Prop := w = s.mem.word a ∨ w = (memAfterBus s).word a

/-- What LOADALL requires of its area when no other agent writes it (40_loadall.md R107, R110). -/
def ImageOk (s : State) : Prop :=
  (s.isProtected = true → (s.mem.word 0x806).getLsbD 0 = true) ∧ s.mem.byte 0x851 = 0 ∧ s.mem.byte 0x85D = 0

/-- The conditions of the A1/B1 erratum do not hold (70_reset_and_hazards.md R295). -/
def NoErratum (s : State) : Prop :=
  s.isProtected = true ∨ (s.mem.word 0x806).getLsbD 0 = true ∨ (s.mem.word 0x804).getLsbD 0 = false ∨
    (s.params.areaWaitStates = 0 ∧ busShared s.now = false) ∨ s.params.stepping = .later

/-- What no instruction touches: the 80287, the environment and the parameters. -/
def SameSurroundings (s t : State) : Prop :=
  t.px = s.px ∧ t.now = s.now ∧ t.inputs = s.inputs ∧ t.params = s.params

/-- Everything but the registers and the prefetch queue is as it was, every byte of memory included. -/
def SameOutsideRegs (s t : State) : Prop :=
  SameSurroundings s t ∧ t.stopped = s.stopped ∧ t.event = s.event ∧ ∀ a, t.mem.byte a = s.mem.byte a

/-- The state before an instruction with the outcome of an exception recorded (60_exceptions.md R247): nothing else has
changed, and no instruction is in progress. -/
def excepted (n : Nat) (code : Option Word) (s : State) : State :=
  { s with event := some (.exception n code s.regs.cs s.regs.ip), prefixes := 0 }

/-- A sampled state in which the processor goes on with the instruction at CS:IP: no RESET, not stopped, no outcome
pending, no interrupt taken. -/
def AtInstruction (u : State) : Prop :=
  u.now.reset = false ∧ u.stopped = false ∧ u.event = none ∧ enabledInterrupt u = none

/-- The bytes after the F1H bytes consumed so far are those of `i`, and it is not too long. -/
def HasInstruction (i : Instr) (u : State) : Prop :=
  (∀ j (h : j < (encode i).length), fetchByte (u.prefixes + j) u = .ok (encode i)[j]) ∧
    lengthAllowed u.params.maxInsnLen (u.prefixes + i.length) = true

/-- IP has advanced by `len` bytes, where that does not pass FFFFH (10_state.md R12; past it the value is free, log 51). -/
def IpAdvanced (len : Nat) (s t : State) : Prop :=
  s.regs.ip.toNat + len < 2 ^ 16 → t.regs.ip = s.regs.ip + BitVec.ofNat 16 len

/-- The IP a fault of an instruction of `len` bytes saves in the cases of 70_reset_and_hazards.md R291 to R293: after the
instruction on A1 and B1, at it on later steppings. -/
def SteppingIp (len : Nat) (s : State) (ip : Word) : Prop :=
  (s.params.stepping = .later → ip = s.regs.ip) ∧
    (s.params.stepping ≠ .later → s.regs.ip.toNat + len < 2 ^ 16 → ip = s.regs.ip + BitVec.ofNat 16 len)

/-- A reference of `n` bytes of which one lies beyond the limit of a valid expand-up segment (20_memory.md R47). -/
def Beyond (x : SegReg) (off : Word) (n : Nat) (s : State) : Prop :=
  (s.regs.cache x).valid = true ∧ (s.regs.cache x).expandDown = false ∧ (s.regs.cache x).limit.toNat < off.toNat + n - 1

/-- A null selector in protected mode, in a register other than SS, with the invalid cache its load leaves (20_memory.md
R55). -/
def NullIn (x : SegReg) (s : State) : Prop :=
  s.isProtected = true ∧ x ≠ .ss ∧ (s.regs.seg x).toNat ≤ 3 ∧ (s.regs.cache x).valid = false

/-- Whether the checks of a return find the descriptor `c` wanting for the register numbered `n` and its selector `v`, past
those of levels: the source does not describe them (60_exceptions.md R252; log 30). -/
def FurtherFails (n : Nat) (v : Word) (c : Cache) (l : Level) : Prop :=
  Config.furtherLoadCheckFails n v (c.base, c.access, c.limit) l = true

/-- A descriptor whose level is not less than `l` and is the RPL of its selector `v`. -/
def LevelFits (v : Word) (c : Cache) (l : Level) : Prop := l ≤ c.dpl ∧ c.dpl = v.extractLsb' 0 2

/-- The transfer of a return to `f` with the descriptors `c` of CS and `d` of SS and the flag word `fl`. -/
def Transfers (f : ReturnFrame) (c d : Cache) (fl : Word) (s : State) (o : Outcome) : Prop :=
  ∃ t, o = .next t ∧ t.regs.cs = f.cs ∧ t.regs.ip = f.ip ∧ t.regs.ss = f.ss ∧ t.regs.csCache = c ∧ t.regs.ssCache = d ∧
    t.cpl = some (f.cs.extractLsb' 0 2) ∧ t.regs.flags = fl ∧
    (s.regs.dsCache.dpl = 3 → t.regs.ds = s.regs.ds ∧ t.regs.dsCache = s.regs.dsCache) ∧
    (s.regs.esCache.dpl = 3 → t.regs.es = s.regs.es ∧ t.regs.esCache = s.regs.esCache) ∧ t.isProtected = true ∧
    t.prefetch = [] ∧ t.event = s.event ∧ ∀ a, t.mem.byte a = s.mem.byte a

/-- What a return to `f` at level `l` in protected mode answers: refused, where CS or SS is null; exception 13 that names CS,
where the RPL fields of CS and SS differ, or CS names no segment, or one of a level that is less than CPL or not its RPL, or
fails a further check; where CS passes, exception 13 that names SS, where SS fails in one of these ways; and where SS passes
too, the transfer to CS:IP with the flag word `fl`. -/
def ReturnsTo (f : ReturnFrame) (l : Level) (fl : Word) (s : State) (o : Outcome) : Prop :=
  (f.cs.toNat ≤ 3 ∨ f.ss.toNat ≤ 3 → o = .refused .nullSelectorNotForCsSs) ∧
  (3 < f.cs.toNat → 3 < f.ss.toNat →
    (f.cs.extractLsb' 0 2 ≠ f.ss.extractLsb' 0 2 ∨ (∀ c, f.csDesc = some c → ¬ LevelFits f.cs c l ∨ FurtherFails 1 f.cs c l) →
      o = .next (excepted 13 (some (f.cs &&& 0xFFFC)) s)) ∧
    (f.cs.extractLsb' 0 2 = f.ss.extractLsb' 0 2 → ∀ c, f.csDesc = some c → LevelFits f.cs c l → ¬ FurtherFails 1 f.cs c l →
      ((∀ d, f.ssDesc = some d → ¬ LevelFits f.ss d l ∨ FurtherFails 2 f.ss d l) →
        o = .next (excepted 13 (some (f.ss &&& 0xFFFC)) s)) ∧
      ∀ d, f.ssDesc = some d → LevelFits f.ss d l → ¬ FurtherFails 2 f.ss d l → Transfers f c d fl s o))

/-- The two fields that are CPL agree, in protected mode, at the level `l` (10_state.md R24). -/
def AtLevel (l : Level) (s : State) : Prop := s.isProtected = true ∧ s.csDpl = l ∧ s.ssDpl = l

end Sys2Proof.Machine

open Sys2Proof Sys2Proof.Machine

/-! ### Encodings -/

/-- Decode and encode agree, whatever bytes follow: no bit of an encoding is dropped (spec/opcode_table.json;
30_encoding.md R91). -/
def Obligations.DecodeInvertsEncode : Prop :=
  ∀ (i : Instr) (rest : List Byte), decode (encode i ++ rest) = .instr i i.length ∧ (encode i).length = i.length

/-- The other direction: bytes that decode to an instruction begin with its encoding, so that no two instructions share
one and nothing else decodes to it (30_encoding.md R86, R92). -/
def Obligations.DecodedBytesAreTheEncoding : Prop :=
  ∀ (bs : List Byte) (i : Instr) (n : Nat), decode bs = .instr i n → bs.take n = encode i ∧ n = i.length

/-- 30_encoding.md R83: after 0FH every second byte but 04H and 05H is refused by name. -/
def Obligations.OtherSecondBytesRefused : Prop :=
  ∀ (b : Byte) (rest : List Byte),
    decode (0x0F :: 0x05 :: rest) = .instr .loadall 2 ∧ decode (0x0F :: 0x04 :: rest) = .instr .op0F04 2 ∧
      (b ≠ 0x04 → b ≠ 0x05 → decode (0x0F :: b :: rest) = .refuse (.secondByteNotInSource b))

/-- Words written out from the encodings of 30_encoding.md R81, R82, R86 decode to their instructions, and the rows'
numbers in the opcode table do. -/
def Obligations.SpecWordsDecode : Prop :=
  decode [0b00001111, 0b00000101] = .instr .loadall 2 ∧ decode [0b00001111, 0b00000100] = .instr .op0F04 2 ∧
    decode [0b11010110] = .instr .opD6 1 ∧ decode [0b11110001] = .instr .pfxF1 1 ∧
    decode [0b11010000, 0b11110000] = .instr (.shiftD0Reg6 3 0) 2 ∧
    decode [0b11110110, 0b11001000] = .instr (.testF6Reg1 3 0) 2 ∧
    decodeTableWord 16 0x0F05 = some .loadall ∧ decodeTableWord 16 0xF74D = some (.testF7Reg1 1 5)

/-! ### LOADALL -/

/-- 40_loadall.md R104, R106: real mode or CPL 0, an area as the rules require, no other agent writing: LOADALL
completes with every register loaded from its address and everything else, memory included, as it was. Words are low
byte first (log 1). -/
def Obligations.LoadallLoadsTheArea : Prop :=
  ∀ s : State, s.now.writes = [] → mayExecuteLoadall s = true → ImageOk s → NoErratum s →
    ∃ t, exec .loadall s = .next t ∧ t.regs = imageRegs s.mem ∧ t.prefetch = [] ∧ t.prefixes = 0 ∧ SameOutsideRegs s t

/-- 40_loadall.md R120: where another agent writes during LOADALL, it completes and each word it loads is the old or the
new word of its address: the word registers, MSW (bit 0 under the erratum apart, log 34), and the three words of each
descriptor cache and table register. Which one is the model's free value (log 13); the layout of an entry is log 1. -/
def Obligations.LoadallWordsOldOrNew : Prop :=
  ∀ s : State, mayExecuteLoadall s = true → areaOk s = true →
    ∃ t, exec .loadall s = .next t ∧ SameOutsideRegs s t ∧
      (∀ p ∈ wordEntries t.regs, OldOrNew s p.1 p.2) ∧
      (∃ w4 w6, OldOrNew s 0x804 w4 ∧ OldOrNew s 0x806 w6 ∧ (∀ k, 0 < k → t.regs.msw.getLsbD k = w6.getLsbD k) ∧
        ((s.isProtected = true ∨ w6.getLsbD 0 = true ∨ w4.getLsbD 0 = false ∨
          (s.params.areaWaitStates = 0 ∧ busShared s.now = false) ∨ s.params.stepping = .later) → t.regs.msw = w6)) ∧
      (∀ p ∈ cacheEntries t.regs, ∃ w0 w1 w2, OldOrNew s p.1 w0 ∧ OldOrNew s (p.1 + 2) w1 ∧ OldOrNew s (p.1 + 4) w2 ∧
        p.2.base = w1.extractLsb' 0 8 ++ w0 ∧ p.2.access = w1.extractLsb' 8 8 ∧ p.2.limit = w2) ∧
      ∀ p ∈ tableEntries t.regs, ∃ w0 w1 w2, OldOrNew s p.1 w0 ∧ OldOrNew s (p.1 + 2) w1 ∧ OldOrNew s (p.1 + 4) w2 ∧
        p.2.base = w1.extractLsb' 0 8 ++ w0 ∧ p.2.limit = w2

/-- 40_loadall.md R102: in protected mode with CPL not 0, exception 13 with error code 0 and nothing else changed;
with exactly one of the two fields 0, unspecified; in real mode and at CPL 0, no exception. The exception is an
outcome recorded in a next state (log 10); the unspecified case is refused (log 19). -/
def Obligations.LoadallPrivilege : Prop :=
  ∀ s : State,
    (s.isProtected = true → s.csDpl ≠ 0 → s.ssDpl ≠ 0 → exec .loadall s = .next (excepted 13 (some 0) s)) ∧
    (s.isProtected = true → (s.csDpl = 0 ↔ s.ssDpl ≠ 0) → exec .loadall s = .refused .cplUnspecified) ∧
    ((s.isProtected = false ∨ (s.csDpl = 0 ∧ s.ssDpl = 0)) →
      (∀ t, exec .loadall s = .next t → t.event = s.event) ∧ exec .loadall s ≠ .refused .cplUnspecified)

/-- 40_loadall.md R107, R110: an area that breaks a requirement on it gives LOADALL no meaning. It is refused by name
(log 20). -/
def Obligations.LoadallAreaRequirements : Prop :=
  ∀ s : State, s.now.writes = [] → mayExecuteLoadall s = true →
    (s.isProtected = true → (s.mem.word 0x806).getLsbD 0 = false →
      exec .loadall s = .refused .mswBit0ClearInProtectedMode) ∧
    ((s.isProtected = true → (s.mem.word 0x806).getLsbD 0 = true) → (s.mem.byte 0x851 ≠ 0 ∨ s.mem.byte 0x85D ≠ 0) →
      exec .loadall s = .refused .tableEntryByte3NotZero)

/-- The mode after LOADALL, the four cases of 40_loadall.md R111: from real mode by bit 0 of the word at 806H (the erratum
apart), from protected mode never real. -/
def Obligations.LoadallMode : Prop :=
  ∀ s : State, s.now.writes = [] → mayExecuteLoadall s = true → s.mem.byte 0x851 = 0 → s.mem.byte 0x85D = 0 →
    NoErratum s →
    (s.isProtected = false → ∃ t, exec .loadall s = .next t ∧ t.isProtected = (s.mem.word 0x806).getLsbD 0) ∧
    (s.isProtected = true → (s.mem.word 0x806).getLsbD 0 = true →
      ∃ t, exec .loadall s = .next t ∧ t.isProtected = true) ∧
    (s.isProtected = true → ∀ t, exec .loadall s = .next t → t.isProtected = true)

/-- 40_loadall.md R112: the level after LOADALL is the DPL loaded into the CS and SS caches, bits 6-5 of the bytes at
83FH and 845H; the loaded selectors take no part. The bits are those of log 2. -/
def Obligations.LoadallSetsLevel : Prop :=
  ∀ s : State, s.now.writes = [] → mayExecuteLoadall s = true → ImageOk s →
    ∃ t, exec .loadall s = .next t ∧ t.csDpl = (s.mem.byte 0x83F).extractLsb' 5 2 ∧
      t.ssDpl = (s.mem.byte 0x845).extractLsb' 5 2 ∧
      (∀ l, (s.mem.byte 0x83F).extractLsb' 5 2 = l → (s.mem.byte 0x845).extractLsb' 5 2 = l → t.cpl = some l)

/-- 40_loadall.md R121: LOADALL writes no memory; whatever it answers, every byte reads as before. -/
def Obligations.LoadallWritesNoMemory : Prop :=
  ∀ s t : State, exec .loadall s = .next t → SameSurroundings s t ∧ t.stopped = s.stopped ∧
    ∀ a, t.mem.byte a = s.mem.byte a

/-- 95_test_vectors.md V11: executed again with its area unchanged, LOADALL changes no register. -/
def Obligations.LoadallIdempotent : Prop :=
  ∀ s t u : State, s.now.writes = [] → NoErratum s → exec .loadall s = .next t → exec .loadall t = .next u →
    u.regs = t.regs

/-- 70_reset_and_hazards.md R295: on an A1 or B1 part in real mode with bit 0 of the word at 806H clear, bit 0 of MSW
is 0 after LOADALL unless the bus conditions hold and bit 0 of the word at 804H is set; every other bit is the word's.
Bit 0 in the open case is a free value (log 34). -/
def Obligations.LoadallErratum : Prop :=
  ∀ s : State, s.now.writes = [] → s.isProtected = false → ImageOk s → s.params.stepping ≠ .later →
    (s.mem.word 0x806).getLsbD 0 = false →
    ∃ t, exec .loadall s = .next t ∧ (∀ k, 0 < k → t.regs.msw.getLsbD k = (s.mem.word 0x806).getLsbD k) ∧
      (((s.params.areaWaitStates = 0 ∧ busShared s.now = false) ∨ (s.mem.word 0x804).getLsbD 0 = false) →
        t.regs.msw.getLsbD 0 = false)

/-- 40_loadall.md R113: after LOADALL the next instruction byte is the one at the loaded CS base plus the loaded IP,
read from memory, if the loaded CS cache admits the fetch. Which types it admits is log 22. -/
def Obligations.LoadallTransfersControl : Prop :=
  ∀ s t : State, mayExecuteLoadall s = true → exec .loadall s = .next t → t.regs.csCache.valid = true →
    t.regs.csCache.codeTypeListed = true → t.regs.ip.toNat ≤ t.regs.csCache.limit.toNat →
    t.regs.csCache.base.toNat + t.regs.ip.toNat < 2 ^ 24 →
    fetchByte 0 t = .ok (s.mem.byte (t.regs.csCache.base + t.regs.ip.zeroExtend 24))

/-- 40_loadall.md R119: if the CS cache that LOADALL loaded is invalid, LOADALL has completed, and the exception, 13
with error code 0, is raised by the fetch of the next instruction, at the loaded CS:IP. The outcome is recorded in a
next state (log 10). -/
def Obligations.LoadallInvalidCs : Prop :=
  ∀ s t : State, mayExecuteLoadall s = true → s.event = none → s.stopped = false → exec .loadall s = .next t →
    s.inputs = [] → t.regs.csCache.valid = false →
    step t = .next (excepted 13 (some 0) { t with now := Input.quiet })

/-! ### The other opcodes -/

/-- 41_undocumented_opcodes.md R131: in real mode and at CPL 0 0F04H stops the processor (and does not leave protected
mode, log 18, nor change the 80287, log 17); in protected mode with CPL not 0 it raises exception 13 with OP0F04_ERROR_CODE and changes nothing
else; with exactly one of the two fields 0 it is unspecified, as for LOADALL. What else it leaves is free (log 17). -/
def Obligations.Op0F04StopsOrFaults : Prop :=
  ∀ s : State,
    (mayExecuteLoadall s = true → ∃ t, exec .op0F04 s = .next t ∧ t.stopped = true ∧ t.event = none ∧
      SameSurroundings s t ∧ (s.isProtected = true → t.isProtected = true)) ∧
    (mustRefuseLoadall s = true → exec .op0F04 s = .next (excepted 13 (some s.params.op0F04ErrorCode) s)) ∧
    (s.isProtected = true → (s.csDpl = 0 ↔ s.ssDpl ≠ 0) → exec .op0F04 s = .refused .cplUnspecified)

/-- 10_state.md R29: a step of a stopped processor executes no instruction, and only RESET clears Stopped. What else
such a step does is free (log 17). -/
def Obligations.OnlyResetLeavesStopped : Prop :=
  ∀ s : State, s.stopped = true → ∃ t, step s = .next t ∧ (t.stopped = false ↔ (sampleInput s).now.reset = true)

/-- 41_undocumented_opcodes.md R135: the F1H prefix performs no function: it completes in every mode at every level,
the instruction goes on with its next byte, and nothing else changes. One step for each F1H byte is the model's choice
(log 15). -/
def Obligations.F1Completes : Prop :=
  ∀ s : State, ∃ t, exec .pfxF1 s = .next t ∧ t.prefixes = s.prefixes + 1 ∧ t.regs = s.regs ∧ t.prefetch = s.prefetch ∧
    SameOutsideRegs s t

/-- 41_undocumented_opcodes.md R135: an instruction does the same after any number of F1H bytes as after none, the
saved CS:IP of an exception included. The count of F1H bytes is the model's own field (log 15). -/
def Obligations.F1ChangesNoInstruction : Prop :=
  ∀ (i : Instr) (n : Nat) (s : State), i ≠ .pfxF1 → exec i { s with prefixes := n } = exec i { s with prefixes := 0 }

/-- 41_undocumented_opcodes.md R135: `n` F1H bytes and then the bytes of an instruction, in all not too long: after
`n` more steps than without them the machine has executed exactly that instruction. One step for each F1H byte is the
model's choice (log 15); the length allowed is log 16. -/
def Obligations.PrefixedInstructionRuns : Prop :=
  ∀ (n : Nat) (i : Instr) (s : State), s.inputs = [] → s.now = Input.quiet → s.stopped = false →
    s.event = none → s.prefixes = 0 →
    PrefixedInstr.wellFormed s.params.maxInsnLen { f1s := n, instr := i } = true →
    (∀ j (h : j < (encodePrefixed { f1s := n, instr := i }).length),
      fetchByte j s = .ok (encodePrefixed { f1s := n, instr := i })[j]) →
    Sys2Proof.core.run (n + 1) s = exec i s

/-- 41_undocumented_opcodes.md R137: 80H and TEST at F6H and F7H are refused by name, every operand and state. The
refusals are log 38. -/
def Obligations.TargetsRefused : Prop :=
  ∀ (m : BitVec 2) (x r : BitVec 3) (s : State),
    exec (.grp80 m x r) s = .refused (.semanticsNotInSource .group80) ∧
    exec (.testF6Reg0 m r) s = .refused (.semanticsNotInSource .testF6) ∧
    exec (.testF7Reg0 m r) s = .refused (.semanticsNotInSource .testF7)

/-- 41_undocumented_opcodes.md R132, R136: 82H does what 80H does, F6H and F7H with REG = 1 what REG = 0 does, on every
operand and state, and so they stop by name too. -/
def Obligations.AliasesActAsTargets : Prop :=
  ∀ (m : BitVec 2) (x r : BitVec 3) (s : State),
    exec (.alias82 m x r) s = exec (.grp80 m x r) s ∧
    exec (.testF6Reg1 m r) s = exec (.testF6Reg0 m r) s ∧ exec (.testF7Reg1 m r) s = exec (.testF7Reg0 m r) s ∧
    exec (.alias82 m x r) s = .refused (.semanticsNotInSource .group80) ∧
    exec (.testF6Reg1 m r) s = .refused (.semanticsNotInSource .testF6) ∧
    exec (.testF7Reg1 m r) s = .refused (.semanticsNotInSource .testF7)

/-- 41_undocumented_opcodes.md R133: D0H and D1H with REG = 6 are refused while SHIFT_REG6_ALIAS is unset, and where
it is set stop as the shift of that REG value, which is not in the source. The refusals are log 38. -/
def Obligations.ShiftReg6Refused : Prop :=
  ∀ (m : BitVec 2) (r : BitVec 3) (s : State),
    (s.params.shiftReg6Alias = none →
      exec (.shiftD0Reg6 m r) s = .refused .shiftAliasUnset ∧ exec (.shiftD1Reg6 m r) s = .refused .shiftAliasUnset) ∧
    (∀ t, s.params.shiftReg6Alias = some t →
      exec (.shiftD0Reg6 m r) s = .refused (.semanticsNotInSource (.shiftD0 t)) ∧
      exec (.shiftD1Reg6 m r) s = .refused (.semanticsNotInSource (.shiftD1 t)))

/-- 41_undocumented_opcodes.md R134: D6H is refused, in any state. -/
def Obligations.OpD6Refused : Prop :=
  ∀ s : State, exec .opD6 s = .refused .proprietaryOpcode

/-! ### The machine -/

/-- A step runs the decoded instruction: where the bytes at CS:IP, after the F1H bytes consumed (log 15), are those of
`i`, the step is `exec i` on the sampled state (log 12), in which a transfer of the processor extension that raised
nothing is one of the writes made during the instruction (log 27), and then the writes other agents made during the step
are in memory (log 13). -/
def Obligations.StepRunsDecodedInstruction : Prop :=
  ∀ (s u : State) (i : Instr), transferPhase (sampleInput s) = .next u → AtInstruction u → HasInstruction i u →
    step s = mapNext finishStep (exec i u)

/-- The well-formed states are closed under every step. The invariant is the model's own (logs 7, 14, 15): canonical
memory, no more prefetched bytes than PREFETCH_DEPTH ahead of the F1H bytes consumed unless an outcome is pending, no more
F1H bytes than the length allows. -/
def Obligations.StepKeepsWf : Prop := ∀ s t : State, s.wf = true → step s = .next t → t.wf = true

/-- The machine right after reset is well formed. -/
def Obligations.ResetWf : Prop := State.reset.wf = true

/-- 60_exceptions.md R251: no step leaves protected mode but one in which RESET is active. That free registers keep
bit 0 of MSW is log 18. -/
def Obligations.ProtectedModeLeftOnlyByReset : Prop :=
  ∀ s t : State, step s = .next t → s.isProtected = true → (sampleInput s).now.reset = false → t.isProtected = true

/-- 10_state.md R34: no step changes a parameter of the machine. -/
def Obligations.ParametersFixed : Prop := ∀ s t : State, step s = .next t → t.params = s.params

/-- 70_reset_and_hazards.md R270 to R272: a step with RESET active gives real mode, not stopped, nothing prefetched, CS,
its base and IP at POWER_UP_ADDRESS, every other register at RESET_STATE, memory unchanged where no other bus master
writes. That both are parameters of the machine is log 9, that RESET comes before all else in its step log 50, that a
transfer of the processor extension in that step is dropped log 27. -/
def Obligations.ResetTakesEffect : Prop :=
  ∀ s : State, (sampleInput s).now.reset = true → (sampleInput s).now.writes = [] →
    ∃ t, step s = .next t ∧ t.isProtected = false ∧ t.stopped = false ∧ t.prefetch = [] ∧ t.event = none ∧
      t.prefixes = 0 ∧ t.regs = { s.params.resetState with
        msw := t.regs.msw, ip := s.params.powerUp.ip, cs := s.params.powerUp.cs
        csCache := { s.params.resetState.csCache with base := s.params.powerUp.csBase } } ∧
      (∀ k, 0 < k → t.regs.msw.getLsbD k = s.params.resetState.msw.getLsbD k) ∧ ∀ a, t.mem.byte a = s.mem.byte a

/-- 10_state.md R33: right after reset the processor is in real mode, not stopped, and has prefetched nothing. What
memory reads as is the model's choice (log 7). -/
def Obligations.ResetState : Prop :=
  State.reset.isProtected = false ∧ State.reset.stopped = false ∧ State.reset.prefetch = [] ∧
    ∀ a, State.reset.mem.byte a = Memory.unlisted

/-- 60_exceptions.md R242, R247: an external interrupt pending at an instruction boundary with IF set, at which the
instruction would raise no exception, is taken: the outcome names its vector and the CS:IP of the next instruction,
and nothing else changes. The outcome and the saved CS:IP are logs 10 and 40; bit 9 is log 3; that it is taken where the
model refuses the instruction is log 26, and that the first of F1H bytes stands for its instruction log 15; the input of the step
is sampled (log 12). -/
def Obligations.InterruptTaken : Prop :=
  ∀ (s : State) (v : Byte), (sampleInput s).now.reset = false → s.stopped = false → s.event = none → s.prefixes = 0 →
    (sampleInput s).now.transfer = none → (sampleInput s).now.writes = [] → (sampleInput s).now.interrupt = some v →
    s.regs.flags.getLsbD 9 = true → (∀ t, runInstruction (sampleInput s) = .next t → t.event = none) →
    ∃ t, step s = .next t ∧ t.event = some (.interrupt v s.regs.cs s.regs.ip) ∧ t.regs = s.regs ∧ t.stopped = false ∧
      t.prefetch = s.prefetch ∧ t.prefixes = 0 ∧ SameSurroundings (sampleInput s) t ∧ ∀ a, t.mem.byte a = s.mem.byte a

/-- 60_exceptions.md R242: with IF clear a pending external interrupt has no effect: the step is the one without it.
IF is bit 9 (log 3). -/
def Obligations.InterruptMasked : Prop :=
  ∀ (s : State) (i : Input) (rest : List Input), s.inputs = i :: rest → s.regs.flags.getLsbD 9 = false →
    mapNext (fun t => { t with now := Input.quiet }) (step s) =
      mapNext (fun t => { t with now := Input.quiet }) (step { s with inputs := { i with interrupt := none } :: rest })

/-- 60_exceptions.md R247 (the model's abstract step, log 11): after an exception or interrupt outcome the next step enters
the handler: the outcome is consumed, the mode stays, nothing is prefetched, and in real mode CS addresses its paragraph. -/
def Obligations.OutcomeIsHandedOver : Prop :=
  ∀ s : State, (sampleInput s).now.reset = false → (sampleInput s).now.writes = [] → s.stopped = false →
    s.event.isSome = true →
    ∃ t, step s = .next t ∧ t.event = none ∧ t.prefixes = 0 ∧ t.prefetch = [] ∧ t.isProtected = s.isProtected ∧
      (s.isProtected = false → t.regs.csCache.base.toNat = 16 * t.regs.cs.toNat ∧ t.regs.csCache.limit = 0xFFFF)

/-- 20_memory.md R46, R49; 10_state.md R12: an instruction byte fetched through an invalid CS cache or beyond the
limit of an expand-up one, the first after the F1H bytes or the second of an encoding of two bytes, raises exception 13 with
error code 0, and the state is the one before the instruction. Logs 10, 24, 25; a CS cache of an unlisted type is log 22. -/
def Obligations.FetchRaisesException : Prop :=
  ∀ s : State, AtInstruction (sampleInput s) → (sampleInput s).now.transfer = none → (sampleInput s).now.writes = [] →
    (s.regs.csCache.valid = false ∨
      (s.regs.csCache.expandDown = false ∧
        (s.regs.csCache.limit.toNat < s.regs.ip.toNat + s.prefixes ∨
          ((∃ b, fetchByte s.prefixes s = .ok b ∧ needsSecondByte b = true) ∧
            s.regs.csCache.limit.toNat < s.regs.ip.toNat + s.prefixes + 1)))) →
    step s = .next (excepted 13 (some 0) (sampleInput s))

/-- 20_memory.md R68: after a store by an instruction of `len` bytes an instruction byte reads as before it or as memory holds
it now, and beyond the PREFETCH_DEPTH bytes ahead of that instruction as memory holds it now. After a jump within the segment
or a far transfer that raises no exception every one reads as memory holds it now. Which one is the model's free value
(log 14). -/
def Obligations.PrefetchOldOrNew : Prop :=
  ∀ (len : Nat) (f : Memory → Memory) (s : State) (k : Nat) (a : Addr), fetchAddr k s = .ok a →
    (fetchByte k (storeMem len f s) = fetchByte k s ∨ fetchByte k (storeMem len f s) = .ok ((f s.mem).byte a)) ∧
    (len + s.params.prefetchDepth ≤ k → fetchByte k (storeMem len f s) = .ok ((f s.mem).byte a)) ∧
    (∀ target, ∃ u, nearJump target (storeMem len f s) = .next u ∧ u.regs.ip = target ∧
      ∀ j b, fetchAddr j u = .ok b → fetchByte j u = .ok ((f s.mem).byte b)) ∧
    ∀ cs d target u, farTransfer cs d target (storeMem len f s) = .next u → s.event = none → u.event = none →
      u.regs.ip = target ∧ ∀ j b, fetchAddr j u = .ok b → fetchByte j u = .ok ((f s.mem).byte b)

/-- 10_state.md R28: a step that answers a next state leaves the six descriptor caches, GDTR and IDTR as they were, unless
RESET is active, the processor is stopped, an outcome is handed over (log 11), or the instruction at CS:IP is LOADALL or
0F04H (log 17). -/
def Obligations.CachesChangeOnlyAsListed : Prop :=
  ∀ s t : State, step s = .next t → (sampleInput s).now.reset = false → s.stopped = false → s.event = none →
    fetchDecode (sampleInput s) ≠ .instr .loadall → fetchDecode (sampleInput s) ≠ .instr .op0F04 →
    (∀ x, t.regs.cache x = s.regs.cache x) ∧ t.regs.ldtCache = s.regs.ldtCache ∧ t.regs.tssCache = s.regs.tssCache ∧
      t.regs.gdtr = s.regs.gdtr ∧ t.regs.idtr = s.regs.idtr

/-! ### Memory references -/

/-- 20_memory.md R43, R44: in memory of canonical form a word written is read back, its low byte at the lower address,
and no other byte changes. The order is log 1. -/
def Obligations.WordStore : Prop :=
  ∀ (m : Memory) (a : Addr) (v : Word), m.wf = true → (m.setWord a v).word a = v ∧ (m.setWord a v).byte a = v.extractLsb' 0 8 ∧
    (m.setWord a v).byte (a + 1) = v.extractLsb' 8 8 ∧ ∀ b, b ≠ a → b ≠ a + 1 → (m.setWord a v).byte b = m.byte b

/-- 20_memory.md R46: a reference through a cache whose valid bit, bit 7 of its access byte, is 0 raises exception 13
with error code 0 (through SS 12 or 13, unspecified which), the state is the one before the instruction, and no memory
is referenced. The bit is log 2, the choice between 12 and 13 a free value (log 21). -/
def Obligations.InvalidCacheReference : Prop :=
  ∀ (x : SegReg) (off n : Nat) (k : Kind) (later : Bool) (s : State), (s.regs.cache x).access.getLsbD 7 = false →
    ∃ st, segAccess x off n k later s = .error st ∧
      (x ≠ .ss → raise st s = .next (excepted 13 (some 0) s)) ∧
      (x = .ss → ∃ t, raise st s = .next t ∧ t.regs = s.regs ∧ t.mem = s.mem ∧
        (t.event = some (.exception 12 (some 0) s.regs.cs s.regs.ip) ∨
          t.event = some (.exception 13 (some 0) s.regs.cs s.regs.ip)))

/-- 20_memory.md R47, R49, R50: through a valid cache, a reference of which a byte lies beyond the limit, or would run
past FFFFH, raises exception 9 if it is a later word of an extension operand, else 12 through SS and 13 through the
others. The limit's meaning is log 24, the error codes log 25; that a CS or SS cache of an unlisted type is no exception to
it is log 22. -/
def Obligations.LimitViolation : Prop :=
  ∀ (x : SegReg) (off n : Nat) (k : Kind) (later : Bool) (s : State), (s.regs.cache x).valid = true → 0 < n →
    (0xFFFF < off + n - 1 ∨
      ((s.regs.cache x).expandDown = false ∧ (s.regs.cache x).limit.toNat < off + n - 1) ∨
      ((s.regs.cache x).expandDown = true ∧ off ≤ (s.regs.cache x).limit.toNat)) →
    segAccess x off n k later s =
      .error (if later then .exception 9 none else if x = .ss then .exception 12 (some 0) else .exception 13 (some 0))

/-- 20_memory.md R51, R45: a reference that passes the valid-bit, limit and rights checks is made at base plus offset, in
either mode, whatever the visible part holds; where that sum exceeds FFFFFFH, PHYS_WRAP says what happens, and unset the
reference has no meaning (92_eei_decisions.md D15; what the settings do is log 23). -/
def Obligations.ReferenceAddress : Prop :=
  ∀ (x : SegReg) (off : Word) (n : Nat) (k : Kind) (later : Bool) (s : State), 0 < n →
    (s.regs.cache x).valid = true → (s.regs.cache x).withinLimit off.toNat n = true →
    rights x (s.regs.cache x) k = .allowed →
    ((s.regs.cache x).base.toNat + off.toNat + n ≤ 2 ^ 24 →
      ∃ a, segAccess x off.toNat n k later s = .ok a ∧ a.toNat = (s.regs.cache x).base.toNat + off.toNat) ∧
    (2 ^ 24 ≤ (s.regs.cache x).base.toNat + off.toNat →
      (s.params.physWrap = none → segAccess x off.toNat n k later s = .error (.refuse .physWrapUnset)) ∧
      (s.params.physWrap = some .fault →
        segAccess x off.toNat n k later s = .error (.fault .physicalAddressOverflow)) ∧
      (s.params.physWrap = some .wrap24 → ∃ a, segAccess x off.toNat n k later s = .ok a ∧
        a.toNat + 2 ^ 24 = (s.regs.cache x).base.toNat + off.toNat))

/-- The rows of 20_memory.md R48 by the bits of the access byte: execute-only code, execute/read code, writable
expand-up data in CS; writable data in DS, ES and SS; data that is not writable in DS and ES. And what a reference through a
valid cache, within its limit, makes of it (20_memory.md R45): one that is denied raises exception 13 with error code 0, one
to which the source gives no meaning is refused (92_eei_decisions.md D26). The bits are log 2, the rows log 22, the number and
the error code log 25. -/
def Obligations.RightsTable : Prop :=
  (∀ (x : SegReg) (off n : Nat) (k : Kind) (later : Bool) (s : State), (s.regs.cache x).valid = true →
    (s.regs.cache x).withinLimit off n = true →
    (rights x (s.regs.cache x) k = .denied → segAccess x off n k later s = .error (.exception 13 (some 0))) ∧
    (rights x (s.regs.cache x) k = .unspecified → segAccess x off n k later s = .error (.refuse .segmentTypeUnspecified))) ∧
  ∀ c : Cache,
    (c.access.extractLsb' 3 2 = 3 → c.access.getLsbD 1 = false →
      rights .cs c .fetch = .allowed ∧ ∀ x, x ≠ .ss → rights x c .read = .denied ∧ rights x c .write = .denied) ∧
    (c.access.extractLsb' 3 2 = 3 → c.access.getLsbD 1 = true →
      rights .cs c .fetch = .allowed ∧ ∀ x, x ≠ .ss → rights x c .read = .allowed ∧ rights x c .write = .denied) ∧
    (c.access.extractLsb' 1 4 = 9 → ∀ k, rights .cs c k = .allowed) ∧
    (c.access.extractLsb' 3 2 = 2 → c.access.getLsbD 1 = true →
      ∀ x, x ≠ .cs → rights x c .read = .allowed ∧ rights x c .write = .allowed) ∧
    (c.access.extractLsb' 3 2 = 2 → c.access.getLsbD 1 = false →
      ∀ x, x = .ds ∨ x = .es → rights x c .read = .allowed ∧ rights x c .write = .denied)

/-! ### Segment registers -/

/-- 20_memory.md R53: a real mode load of any segment register with `p` gives it the visible part `p` and a cache with
base `p` times 16, limit FFFFH and a valid, writable segment; IP advances (10_state.md R12, log 51) and no other register
and nothing else changes. The rest of the access byte is free (log 29). -/
def Obligations.RealModeSegmentLoad : Prop :=
  ∀ (x : SegReg) (p : Word) (d : Option Cache) (len : Nat) (s : State), s.isProtected = false →
    ∃ t, loadSegReg x p d len s = .next t ∧ t.regs.seg x = p ∧ (t.regs.cache x).base.toNat = 16 * p.toNat ∧
      (t.regs.cache x).limit = 0xFFFF ∧ (t.regs.cache x).valid = true ∧ (t.regs.cache x).writableData = true ∧
      t.regs = { s.regs.setSeg x p (t.regs.cache x) with ip := t.regs.ip } ∧ IpAdvanced len s t ∧ SameOutsideRegs s t

/-- 20_memory.md R55; 10_state.md R12: in protected mode a load of DS or ES with 0000H to 0003H completes, IP advances (log 51),
no other register and nothing else changes, and every later reference through it raises exception 13 with error code 0, with
no memory reference. The rest of its cache is free (log 31). -/
def Obligations.NullSelectorLoad : Prop :=
  ∀ (x : SegReg) (v : Word) (d : Option Cache) (len : Nat) (s : State), s.isProtected = true → x = .ds ∨ x = .es →
    v.toNat ≤ 3 →
    ∃ t, loadSegReg x v d len s = .next t ∧ t.regs.seg x = v ∧
      t.regs = { s.regs.setSeg x v (t.regs.cache x) with ip := t.regs.ip } ∧ IpAdvanced len s t ∧ SameOutsideRegs s t ∧
      ∀ off n k later, ∃ st, segAccess x off n k later t = .error st ∧ raise st t = .next (excepted 13 (some 0) t)

/-- 20_memory.md R54, R56; 60_exceptions.md R232: in protected mode a load of a selector that is not null, whose descriptor
has a privilege level less than CPL or fails a further check, or that corresponds to no segment, raises exception 13, with
bits 15-2 of the selector and bits 1-0 zero as its error code, bits 15-2 not zero, before any register changes. Any other
descriptor gives the cache its base, limit and access rights: the register takes the selector, IP advances (10_state.md R12,
log 51) and no other register and nothing else changes. The further checks are a constant of the model (log 30). -/
def Obligations.DescriptorSegmentLoad : Prop :=
  ∀ (x : SegReg) (v : Word) (d : Option Cache) (l : Level) (len : Nat) (s : State), AtLevel l s → 3 < v.toNat →
    ((∀ c, d = some c → c.dpl < l ∨ FurtherFails x.index v c l) →
      ∃ code, loadSegReg x v d len s = .next (excepted 13 (some code) s) ∧ code.extractLsb' 2 14 = v.extractLsb' 2 14 ∧
        code.extractLsb' 2 14 ≠ 0 ∧ code.extractLsb' 0 2 = 0) ∧
    ∀ c, d = some c → l ≤ c.dpl → ¬ FurtherFails x.index v c l →
      ∃ t, loadSegReg x v d len s = .next t ∧ t.regs.seg x = v ∧ t.regs.cache x = c ∧
        t.regs = { s.regs.setSeg x v c with ip := t.regs.ip } ∧ IpAdvanced len s t ∧ SameOutsideRegs s t

/-- 42_other_instructions.md R151: MOV AX,ES reads the visible part of ES, in any mode, whatever its cache holds, and
raises no exception; no other register but IP changes (log 51). With the valid bit of the cache 0, MOV AX,ES:[BX] raises
exception 13 with error code 0. The bit is log 2. -/
def Obligations.SegmentRegisterRead : Prop :=
  ∀ (len : Nat) (s : State),
    (movAxEs len s).regs = { s.regs with ax := s.regs.es, ip := (movAxEs len s).regs.ip } ∧
    IpAdvanced len s (movAxEs len s) ∧ SameOutsideRegs s (movAxEs len s) ∧
    (s.regs.esCache.access.getLsbD 7 = false → movAxEsBx len s = .next (excepted 13 (some 0) s))

/-! ### Facts of other instructions -/

/-- 42_other_instructions.md R152: PUSH SP writes the value SP had before at SS:SP - 2, and SP is 2 less; the stored
word's address is the one its reference has; no other byte and no other register but IP changes (10_state.md R12, log 51).
The push itself is log 48. -/
def Obligations.PushSpPushesOldSp : Prop :=
  ∀ (len : Nat) (s : State) (a : Addr), s.mem.wf = true →
    segAccess .ss (s.regs.sp - 2).toNat 2 .write false s = .ok a →
    ∃ t, pushSp len s = .next t ∧ t.mem.word a = s.regs.sp ∧
      t.regs = { s.regs with sp := s.regs.sp - 2, ip := t.regs.ip } ∧ IpAdvanced len s t ∧
      (∀ b, b ≠ a → b ≠ a + 1 → t.mem.byte b = s.mem.byte b) ∧ t.event = s.event ∧ t.stopped = s.stopped ∧
      SameSurroundings s t

/-- 42_other_instructions.md R153: a shift count acts as its low 5 bits. -/
def Obligations.ShiftCountMasked : Prop := ∀ c : Byte, (shiftCount c).toNat = c.toNat % 32

/-- 42_other_instructions.md R154, R155; 60_exceptions.md R230: IDIV with an exact quotient in range, the most negative
number of its width included, completes with that quotient, and DIV with one that fits; with any other they raise the
divide error, the saved CS:IP at the instruction, no register changed. The vector 0 and that DIV is unsigned are log 47. -/
def Obligations.DivisionRange : Prop :=
  ∀ (w len : Nat) (complete : BitVec w → State → State) (s : State), 0 < w →
    (∀ q : Int, (-(2 ^ (w - 1)) ≤ q → q < 2 ^ (w - 1) →
      idivOp w q len complete s = .next (advance len (complete (BitVec.ofInt w q) s)) ∧ (BitVec.ofInt w q).toInt = q) ∧
    (q < -(2 ^ (w - 1)) ∨ 2 ^ (w - 1) ≤ q → idivOp w q len complete s = .next (excepted 0 none s))) ∧
    ∀ q : Nat, (q < 2 ^ w →
      divOp w q len complete s = .next (advance len (complete (BitVec.ofNat w q) s)) ∧ (BitVec.ofNat w q).toNat = q) ∧
    (2 ^ w ≤ q → divOp w q len complete s = .next (excepted 0 none s))

/-- 60_exceptions.md R254; 42_other_instructions.md R156 to R158: in protected mode at a level greater than IOPL, STI,
CLI, the LOCK prefix and a port access raise exception 13 with error code 0, and so do INS and OUTS, whatever their operands,
with SI, DI and CX as the handler finds them (log 41; that OUTS looks at IOPL first, log 54); in real mode, and at a level at most
IOPL, STI and CLI complete with IF (bit 9, log 3) set and cleared, IP advanced (log 51) and nothing else changed, and a port
access is refused, under a name of its own for the ports 00F8H to 00FFH (log 42). That the LOCKED instruction then does what
it does without LOCK is the model's choice (log 56): R157 says that what a permitted LOCK does is not in the source. -/
def Obligations.IoplRule : Prop :=
  ∀ (port : Word) (len : Nat) (body : State → Outcome) (i : StringInstr) (complete : State → State) (s : State),
    (∀ l, AtLevel l s → s.iopl < l →
      (∀ f ∈ [stiOp len, cliOp len, lockOp body, portOp port], f s = .next (excepted 13 (some 0) s)) ∧
      (i.op = .ins ∨ i.op = .outs →
        ∃ t, stringOp i complete s = .next t ∧ t.event = some (.exception 13 (some 0) s.regs.cs s.regs.ip) ∧
          t.regs = { s.regs with si := t.regs.si, di := t.regs.di, cx := t.regs.cx } ∧ t.stopped = s.stopped ∧
          SameSurroundings s t ∧ ∀ a, t.mem.byte a = s.mem.byte a)) ∧
    ((s.isProtected = false ∨ ∃ l, AtLevel l s ∧ l ≤ s.iopl) →
      (∃ t, stiOp len s = .next t ∧ t.regs = { s.regs with flags := t.regs.flags, ip := t.regs.ip } ∧ IpAdvanced len s t ∧
        SameOutsideRegs s t ∧ ∀ k, t.regs.flags.getLsbD k = if k = 9 then true else s.regs.flags.getLsbD k) ∧
      (∃ t, cliOp len s = .next t ∧ t.regs = { s.regs with flags := t.regs.flags, ip := t.regs.ip } ∧ IpAdvanced len s t ∧
        SameOutsideRegs s t ∧ ∀ k, t.regs.flags.getLsbD k = if k = 9 then false else s.regs.flags.getLsbD k) ∧
      lockOp body s = body s ∧
      portOp port s = .refused (if 0x00F8 ≤ port.toNat ∧ port.toNat ≤ 0x00FF then .reservedPort else .portDeviceNotInSource))

/-- 42_other_instructions.md R159, R160: POPF at level `l` in protected mode of a word it can read completes; IF changes only
if `l` is at most IOPL, IOPL only at level 0, NT and every other bit always; IP advances (log 51). The bits are log 3, the
other flags log 44. Where its stack reference stops it, it ends as the reference says. That the word is the one at SS:SP and
that SP is 2 more is log 48. -/
def Obligations.PopfRespectsPrivilege : Prop :=
  ∀ (l : Level) (len : Nat) (s : State), AtLevel l s →
    (∀ st, segAccess .ss s.regs.sp.toNat 2 .read false s = .error st → popfOp len s = raise st s) ∧
    ∀ a v, segAccess .ss s.regs.sp.toNat 2 .read false s = .ok a → s.mem.word a = v →
      ∃ t, popfOp len s = .next t ∧ t.regs = { s.regs with flags := t.regs.flags, sp := s.regs.sp + 2, ip := t.regs.ip } ∧
        IpAdvanced len s t ∧ SameOutsideRegs s t ∧
        t.regs.flags.getLsbD 9 = (if l ≤ s.iopl then v.getLsbD 9 else s.regs.flags.getLsbD 9) ∧
        t.iopl = (if l = 0 then v.extractLsb' 12 2 else s.iopl) ∧
        ∀ k, k < 16 → k ≠ 9 → k ≠ 12 → k ≠ 13 → t.regs.flags.getLsbD k = v.getLsbD k

/-- 42_other_instructions.md R161: in protected mode a return with NT set and a back link of 0 raises exception 13
with error code 0. The bit is log 3, the return log 33. -/
def Obligations.ReturnWithNtSet : Prop :=
  ∀ (f : ReturnFrame) (s : State), s.isProtected = true → s.regs.flags.getLsbD 14 = true →
    trapReturn f 0 s = .next (excepted 13 (some 0) s)

/-- 42_other_instructions.md R159, R160, R163, R164, R184; 10_state.md R27; 20_memory.md R56; 60_exceptions.md R253: at level
`l` in protected mode IRET with NT clear, and a far RET, raise exception 13 that names CS or SS and change nothing else where
a check on that selector fails, and where none fails go to the saved CS:IP at the level of the RPL fields, with the
descriptors of CS and SS as they stand; IRET writes the flags by POPF's rules (log 44), RET leaves them; DS and ES stay where
their DPL is 3. With a null CS or SS they are refused (log 31). The checks and what else a return leaves are logs 30, 32 and
33. -/
def Obligations.ReturnFromTrap : Prop :=
  ∀ (f : ReturnFrame) (b : Word) (l : Level) (s : State), AtLevel l s →
    (s.regs.flags.getLsbD 14 = false → ReturnsTo f l (poppedFlags l f.flags s.regs.flags) s (trapReturn f b s)) ∧
    ReturnsTo f l s.regs.flags s (farReturn f s)

/-- 42_other_instructions.md R162; 60_exceptions.md R232: in protected mode INT through a gate whose DPL is less than
CPL raises exception 13 with an error code that names the vector and has EXT clear; else the interrupt is the outcome,
with the IP of the next instruction. The layout of the error code is log 25, the outcome log 40, the IP past FFFFH
log 51. -/
def Obligations.IntGate : Prop :=
  ∀ (v : Byte) (gate : Level) (len : Nat) (l : Level) (s : State), AtLevel l s →
    (gate < l → ∃ code : Word, intOp v gate len s = .next (excepted 13 (some code) s) ∧
      code.toNat = 8 * v.toNat + 2 ∧ code.getLsbD 0 = false) ∧
    (l ≤ gate → ∃ ip, intOp v gate len s = .next { s with event := some (.interrupt v s.regs.cs ip), prefixes := 0 } ∧
      (s.regs.ip.toNat + len < 2 ^ 16 → ip = s.regs.ip + BitVec.ofNat 16 len))

/-- 42_other_instructions.md R165: an ESC instruction with TS set raises exception 7 before it executes. The bit is
log 4, that no error code is delivered log 25, that TS is looked at before ERROR, and by FNINIT too, log 45. -/
def Obligations.EscWithTsSet : Prop :=
  ∀ (fninit : Bool) (body : State → Outcome) (s : State), s.regs.msw.getLsbD 3 = true →
    escCheck fninit body s = .next (excepted 7 none s)

/-- 20_memory.md R49, R50; 42_other_instructions.md R166, R167: a later word of an extension operand beyond the limit of a
valid expand-up segment, FFFFH included, raises exception 9, with the 80287 to be forced idle and its pointers kept, no
register changed, and no byte written but those of a word to be written that lie within the limit, whose values are free
(log 53); the first word of an operand, read or written, raises 12 or 13 before anything is sent to the 80287, and changes
nothing else. The transfer is an input of the environment (log 27), what it writes is written during the step (log 13); the
error code is log 25, the order of an ESC instruction's checks log 45. -/
def Obligations.ExtensionOverrun : Prop :=
  ∀ (t : PxTransfer) (off : Word) (k : Kind) (len : Nat) (s : State), (s.regs.cache t.seg).valid = true →
    (s.regs.cache t.seg).expandDown = false →
    ((s.regs.cache t.seg).limit.toNat < t.off + 1 →
      ∃ u, transferOp t s = .next u ∧ u.event = some (.exception 9 none s.regs.cs s.regs.ip) ∧ u.px.needsInit = true ∧
        u.px.instrPtr = s.px.instrPtr ∧ u.px.dataPtr = s.px.dataPtr ∧ u.regs = s.regs ∧ u.mem = s.mem ∧
        ∃ ws, u.now = { s.now with writes := ws ++ s.now.writes } ∧ (t.write = none → ws = []) ∧
          ∀ w ∈ ws, ∃ j, j < 2 ∧ t.off + j ≤ (s.regs.cache t.seg).limit.toNat ∧
            segAccess t.seg (t.off + j) 1 .write false s = .ok w.1) ∧
    ((s.regs.cache t.seg).limit.toNat < off.toNat + 1 → s.regs.msw.getLsbD 3 = false → s.now.error = false →
      s.px.needsInit = false →
      escMemory t.seg off k len s = .next (excepted (if t.seg = .ss then 12 else 13) (some 0) s))

/-- 42_other_instructions.md R168: FNINIT, where TS and ERROR let it execute, marks all data registers empty, sets the
top of stack to 0, masks all errors and forces the 80287 idle; IP advances (log 51) and no other register changes. The
order of the checks is log 45. -/
def Obligations.FninitForcesIdle : Prop :=
  ∀ (len : Nat) (s : State), s.regs.msw.getLsbD 3 = false → s.now.error = false →
    ∃ t, fninitOp len s = .next t ∧ t.px.allEmpty = true ∧ t.px.top = 0 ∧ t.px.allMasked = true ∧ t.px.needsInit = false ∧
      t.px.busy = false ∧ t.regs = { s.regs with ip := t.regs.ip } ∧ IpAdvanced len s t ∧ t.mem = s.mem ∧ t.event = s.event

/-- 42_other_instructions.md R175 to R181; 70_reset_and_hazards.md R294: what the handler adds to SI, DI and CX, and that
this gives the registers with which the failing iteration began, but on A1 and B1 CX at the start of a repeated
instruction that a limit or IOPL violation stopped. The correction of an index register has the operand size as its
magnitude; which sign is the model's free value (log 41). -/
def Obligations.StringRestart : Prop :=
  ∀ (f : StringFault) (r : StringRegs), ∃ d : Word, (d = (if f.wide then 2 else 1) ∨ d = -(if f.wide then 2 else 1)) ∧
    (f.op = .stos → restartRegs .later f r = { r with di := r.di + d, cx := r.cx + if f.repeated then 2 else 0 }) ∧
    (f.op = .ins → restartRegs .later f r =
      { r with di := r.di + d, cx := r.cx + if f.repeated then (if f.ioplFirst then 1 else 2) else 0 }) ∧
    (f.op = .scas → restartRegs .later f r = { r with si := r.si + d, cx := r.cx + if f.repeated then 2 else 0 }) ∧
    (f.op = .outs → restartRegs .later f r = { r with si := r.si + d, cx := r.cx + if f.repeated then 2 else 0 }) ∧
    (f.op = .movs → restartRegs .later f r = if f.namedOperand
      then { r with si := r.si + d, cx := r.cx + if f.repeated then 1 else 0 }
      else { si := r.si + d, di := r.di + d, cx := r.cx + if f.repeated then 2 else 0 }) ∧
    (f.op = .cmps → restartRegs .later f r = if f.namedOperand
      then { r with di := r.di + d, cx := r.cx + if f.repeated then 1 else 0 }
      else { si := r.si + d, di := r.di + d, cx := r.cx + if f.repeated then 2 else 0 }) ∧
    ∀ (st : Stepping) (c : Word), restartRegs st f (savedRegs st f c r) =
      if st ≠ .later ∧ f.repeated = true ∧ f.limitOrIopl = true then { r with cx := c } else r

/-- 70_reset_and_hazards.md R291 to R293: the number, the error code (0, log 25) and the saved CS:IP of four faults, by
stepping: a MOVS or INS that is not repeated with ES null or ES:DI beyond the limit, a null ES that the source of a MOVS meets
first included (log 57), POP to memory and FSTSW or FSTCW with a destination that is null or beyond its limit, PUSH from
memory beyond the stack limit. The IP past FFFFH is log 51, the pop and push log 48, the order of an ESC instruction's checks
log 45; the ports of INS are not the reserved ones (log 42). -/
def Obligations.SavedIpBySteppings : Prop :=
  ∀ (x : SegReg) (off : Word) (len : Nat) (i : StringInstr) (complete : State → State) (s : State),
    ((NullIn x s ∨ Beyond x off 2 s) → (∃ v, segReadWord .ss s.regs.sp s = .ok v) →
      ∃ t ip, popToMemory x off len s = .next t ∧ SteppingIp len s ip ∧
        t.event = some (.exception (if x = .ss then 12 else 13) (some 0) s.regs.cs ip)) ∧
    ((NullIn x s ∨ Beyond x off 2 s) → s.regs.msw.getLsbD 3 = false → s.now.error = false →
      ∃ t ip, escStore x off len s = .next t ∧ SteppingIp len s ip ∧
        t.event = some (.exception (if x = .ss then 12 else 13) (some 0) s.regs.cs ip)) ∧
    (Beyond .ss (s.regs.sp - 2) 2 s → (∃ v, segReadWord x off s = .ok v) →
      ∃ t ip, pushFromMemory x off len s = .next t ∧ SteppingIp len s ip ∧
        t.event = some (.exception 12 (some 0) s.regs.cs ip)) ∧
    ((NullIn .es s ∨ Beyond .es s.regs.di i.size s) → i.repeated = false →
      ((i.op = .movs ∧ ((∃ a, segAccess i.src s.regs.si.toNat i.size .read false s = .ok a) ∨
          (i.src = .es ∧ NullIn .es s))) ∨
        (i.op = .ins ∧ (i.port.toNat < 0x00F8 ∨ 0x00FF < i.port.toNat) ∧
          (s.isProtected = false ∨ ∃ l, AtLevel l s ∧ l ≤ s.iopl))) →
      ∃ t ip, stringOp i complete s = .next t ∧ SteppingIp i.len s ip ∧
        t.event = some (.exception 13 (some 0) s.regs.cs ip))

/-- 42_other_instructions.md R175, R180; 60_exceptions.md R244; 70_reset_and_hazards.md R294: MOVS references its source
before ES:DI. A source beyond the limit stops it with SI and CX off by what the handler adds, a destination beyond the
limit with SI, DI and CX off; on A1 and B1 CX of a repeated one is that of its start. That no byte of memory changes then is
the model's choice (log 53). At an invalid cache, of the source or of ES, it appears as not attempted (10_state.md R19; that
this goes before R175 is log 54), on a stepping without the errata. Where both
references are made and it is not repeated, it copies, does what else is not in the source (`complete`), and IP advances
(10_state.md R12). The sign of the correction is log 41, the numbers are log 25, what it copies log 54. -/
def Obligations.MovsFaultRegisters : Prop :=
  ∀ (i : StringInstr) (complete : State → State) (s : State), i.op = .movs →
    (∀ a b, i.repeated = false → segAccess i.src s.regs.si.toNat i.size .read false s = .ok a →
      segAccess .es s.regs.di.toNat i.size .write false s = .ok b →
      stringOp i complete s = .next (advance i.len (complete (storeMem i.len
        (fun m => if i.wide then m.setWord b (s.mem.word a) else m.setByte b (s.mem.byte a)) s)))) ∧
    (s.params.stepping = .later →
      (i.src ≠ .ss → (s.regs.cache i.src).valid = false → stringOp i complete s = .next (excepted 13 (some 0) s)) ∧
      ((∃ a, segAccess i.src s.regs.si.toNat i.size .read false s = .ok a) → (s.regs.cache .es).valid = false →
        stringOp i complete s = .next (excepted 13 (some 0) s))) ∧
    ∃ d : Word, (d = (if i.wide then 2 else 1) ∨ d = -(if i.wide then 2 else 1)) ∧
      (Beyond i.src s.regs.si i.size s →
        ∃ t ip, stringOp i complete s = .next t ∧
          t.event = some (.exception (if i.src = .ss then 12 else 13) (some 0) s.regs.cs ip) ∧
          t.regs.si + d = s.regs.si ∧ t.regs.di = s.regs.di ∧ t.regs = { s.regs with si := t.regs.si, cx := t.regs.cx } ∧
          (i.repeated = false → t.regs.cx = s.regs.cx) ∧
          (i.repeated = true → s.params.stepping = .later → t.regs.cx + 1 = s.regs.cx) ∧
          (i.repeated = true → s.params.stepping ≠ .later → t.regs.cx = i.startCx) ∧
          ∀ a, t.mem.byte a = s.mem.byte a) ∧
      ((∃ a, segAccess i.src s.regs.si.toNat i.size .read false s = .ok a) → Beyond .es s.regs.di i.size s →
        ∃ t ip, stringOp i complete s = .next t ∧ t.event = some (.exception 13 (some 0) s.regs.cs ip) ∧
          t.regs.si + d = s.regs.si ∧ t.regs.di + d = s.regs.di ∧
          t.regs = { s.regs with si := t.regs.si, di := t.regs.di, cx := t.regs.cx } ∧
          (i.repeated = false → t.regs.cx = s.regs.cx) ∧
          (i.repeated = true → s.params.stepping = .later → t.regs.cx + 2 = s.regs.cx) ∧
          (i.repeated = true → s.params.stepping ≠ .later → t.regs.cx = i.startCx) ∧
          ∀ a, t.mem.byte a = s.mem.byte a)
end

