-- ==== Sys2Proof/Laws/Decode.lean ====
section
/-! SUPPORT. How many bytes the decoder takes. -/

namespace Sys2Proof

/-- The byte after D0H or D1H completes an instruction of two bytes. -/
theorem decodeShift_len {w : Bool} {c : Byte} {i : Instr} {n : Nat} (h : decodeShift w c = .instr i n) : n = 2 := by
  unfold decodeShift at h
  by_cases h6 : regField c = 6
  · rw [if_pos h6] at h; injection h with _ h; exact h.symm
  · rw [if_neg h6] at h; cases h

/-- The byte after F6H or F7H completes an instruction of two bytes. -/
theorem decodeTest_len {w : Bool} {c : Byte} {i : Instr} {n : Nat} (h : decodeTest w c = .instr i n) : n = 2 := by
  unfold decodeTest at h
  by_cases h0 : regField c = 0
  · rw [if_pos h0] at h; injection h with _ h; exact h.symm
  · by_cases h1 : regField c = 1
    · rw [if_neg h0, if_pos h1] at h; injection h with _ h; exact h.symm
    · rw [if_neg h0, if_neg h1] at h; cases h

/-- The byte after 0FH completes an instruction of two bytes. -/
theorem decodeTwoByte_len {c : Byte} {i : Instr} {n : Nat} (h : decodeTwoByte c = .instr i n) : n = 2 := by
  unfold decodeTwoByte at h
  by_cases h5 : c = 0x05
  · rw [if_pos h5] at h; injection h with _ h; exact h.symm
  · by_cases h4 : c = 0x04
    · rw [if_neg h5, if_pos h4] at h; injection h with _ h; exact h.symm
    · rw [if_neg h5, if_neg h4] at h; cases h

/-- Two bytes give an instruction of two. -/
theorem decodeTwo_len {b c : Byte} {i : Instr} {n : Nat} (h : decodeTwo b c = .instr i n) : n = 2 := by
  unfold decodeTwo at h
  by_cases h1 : b = 0x0F
  · rw [if_pos h1] at h; exact decodeTwoByte_len h
  rw [if_neg h1] at h
  by_cases h2 : b = 0x80
  · rw [if_pos h2] at h; injection h with _ h; exact h.symm
  rw [if_neg h2] at h
  by_cases h3 : b = 0x82
  · rw [if_pos h3] at h; injection h with _ h; exact h.symm
  rw [if_neg h3] at h
  by_cases h4 : b = 0xD0
  · rw [if_pos h4] at h; exact decodeShift_len h
  rw [if_neg h4] at h
  by_cases h5 : b = 0xD1
  · rw [if_pos h5] at h; exact decodeShift_len h
  rw [if_neg h5] at h
  by_cases h6 : b = 0xF6
  · rw [if_pos h6] at h; exact decodeTest_len h
  rw [if_neg h6] at h
  by_cases h7 : b = 0xF7
  · rw [if_pos h7] at h; exact decodeTest_len h
  · rw [if_neg h7] at h; cases h

/-- One byte gives an instruction of one. -/
theorem decodeOne_len {b : Byte} {i : Instr} {n : Nat} (h : decodeOne b = .instr i n) : n = 1 := by
  unfold decodeOne at h
  by_cases h1 : b = 0xD6
  · rw [if_pos h1] at h; injection h with _ h; exact h.symm
  · by_cases h2 : b = 0xF1
    · rw [if_neg h1, if_pos h2] at h; injection h with _ h; exact h.symm
    · rw [if_neg h1, if_neg h2] at h; cases h

/-- An instruction has at least one byte. -/
theorem decode_pos {bs : List Byte} {i : Instr} {n : Nat} (h : decode bs = .instr i n) : 0 < n := by
  rcases bs with _ | ⟨b, _ | ⟨c, rest⟩⟩ <;> simp only [decode] at h
  · cases h
  · cases hb : needsSecondByte b <;> simp only [hb, if_true] at h
    · have := decodeOne_len h; omega
    · cases h
  · cases hb : needsSecondByte b <;> simp only [hb, if_true] at h
    · have := decodeOne_len h; omega
    · have := decodeTwo_len h; omega

end Sys2Proof
end

