-- ==== Sys2Proof/Laws/State.lean ====
section
/-! SUPPORT. One lemma per field for each operation that updates the state. -/

namespace Sys2Proof.Machine

/-! ### takeExceptionAt -/

@[simp] theorem takeExceptionAt_regs (n : Nat) (code : Option Word) (ip : Word) (s : State) :
    (takeExceptionAt n code ip s).regs = s.regs := rfl
@[simp] theorem takeExceptionAt_stopped (n : Nat) (code : Option Word) (ip : Word) (s : State) :
    (takeExceptionAt n code ip s).stopped = s.stopped := rfl
@[simp] theorem takeExceptionAt_prefetch (n : Nat) (code : Option Word) (ip : Word) (s : State) :
    (takeExceptionAt n code ip s).prefetch = s.prefetch := rfl
@[simp] theorem takeExceptionAt_mem (n : Nat) (code : Option Word) (ip : Word) (s : State) :
    (takeExceptionAt n code ip s).mem = s.mem := rfl
@[simp] theorem takeExceptionAt_px (n : Nat) (code : Option Word) (ip : Word) (s : State) :
    (takeExceptionAt n code ip s).px = s.px := rfl
@[simp] theorem takeExceptionAt_prefixes (n : Nat) (code : Option Word) (ip : Word) (s : State) :
    (takeExceptionAt n code ip s).prefixes = 0 := rfl
@[simp] theorem takeExceptionAt_event (n : Nat) (code : Option Word) (ip : Word) (s : State) :
    (takeExceptionAt n code ip s).event = some (.exception n code s.regs.cs ip) := rfl
@[simp] theorem takeExceptionAt_now (n : Nat) (code : Option Word) (ip : Word) (s : State) :
    (takeExceptionAt n code ip s).now = s.now := rfl
@[simp] theorem takeExceptionAt_inputs (n : Nat) (code : Option Word) (ip : Word) (s : State) :
    (takeExceptionAt n code ip s).inputs = s.inputs := rfl
@[simp] theorem takeExceptionAt_params (n : Nat) (code : Option Word) (ip : Word) (s : State) :
    (takeExceptionAt n code ip s).params = s.params := rfl
@[simp] theorem takeExceptionAt_draws (n : Nat) (code : Option Word) (ip : Word) (s : State) :
    (takeExceptionAt n code ip s).draws = s.draws := rfl

/-! ### takeException -/

@[simp] theorem takeException_regs (n : Nat) (code : Option Word) (s : State) :
    (takeException n code s).regs = s.regs := rfl
@[simp] theorem takeException_stopped (n : Nat) (code : Option Word) (s : State) :
    (takeException n code s).stopped = s.stopped := rfl
@[simp] theorem takeException_prefetch (n : Nat) (code : Option Word) (s : State) :
    (takeException n code s).prefetch = s.prefetch := rfl
@[simp] theorem takeException_mem (n : Nat) (code : Option Word) (s : State) :
    (takeException n code s).mem = s.mem := rfl
@[simp] theorem takeException_px (n : Nat) (code : Option Word) (s : State) :
    (takeException n code s).px = s.px := rfl
@[simp] theorem takeException_prefixes (n : Nat) (code : Option Word) (s : State) :
    (takeException n code s).prefixes = 0 := rfl
@[simp] theorem takeException_event (n : Nat) (code : Option Word) (s : State) :
    (takeException n code s).event = some (.exception n code s.regs.cs s.regs.ip) := rfl
@[simp] theorem takeException_now (n : Nat) (code : Option Word) (s : State) :
    (takeException n code s).now = s.now := rfl
@[simp] theorem takeException_inputs (n : Nat) (code : Option Word) (s : State) :
    (takeException n code s).inputs = s.inputs := rfl
@[simp] theorem takeException_params (n : Nat) (code : Option Word) (s : State) :
    (takeException n code s).params = s.params := rfl
@[simp] theorem takeException_draws (n : Nat) (code : Option Word) (s : State) :
    (takeException n code s).draws = s.draws := rfl

/-! ### takeInterruptAt -/

@[simp] theorem takeInterruptAt_regs (v : Byte) (ip : Word) (s : State) :
    (takeInterruptAt v ip s).regs = s.regs := rfl
@[simp] theorem takeInterruptAt_stopped (v : Byte) (ip : Word) (s : State) :
    (takeInterruptAt v ip s).stopped = s.stopped := rfl
@[simp] theorem takeInterruptAt_prefetch (v : Byte) (ip : Word) (s : State) :
    (takeInterruptAt v ip s).prefetch = s.prefetch := rfl
@[simp] theorem takeInterruptAt_mem (v : Byte) (ip : Word) (s : State) : (takeInterruptAt v ip s).mem = s.mem := rfl
@[simp] theorem takeInterruptAt_px (v : Byte) (ip : Word) (s : State) : (takeInterruptAt v ip s).px = s.px := rfl
@[simp] theorem takeInterruptAt_prefixes (v : Byte) (ip : Word) (s : State) :
    (takeInterruptAt v ip s).prefixes = 0 := rfl
@[simp] theorem takeInterruptAt_event (v : Byte) (ip : Word) (s : State) :
    (takeInterruptAt v ip s).event = some (.interrupt v s.regs.cs ip) := rfl
@[simp] theorem takeInterruptAt_now (v : Byte) (ip : Word) (s : State) : (takeInterruptAt v ip s).now = s.now := rfl
@[simp] theorem takeInterruptAt_inputs (v : Byte) (ip : Word) (s : State) :
    (takeInterruptAt v ip s).inputs = s.inputs := rfl
@[simp] theorem takeInterruptAt_params (v : Byte) (ip : Word) (s : State) :
    (takeInterruptAt v ip s).params = s.params := rfl
@[simp] theorem takeInterruptAt_draws (v : Byte) (ip : Word) (s : State) :
    (takeInterruptAt v ip s).draws = s.draws := rfl

/-! ### takeInterrupt -/

@[simp] theorem takeInterrupt_regs (v : Byte) (s : State) : (takeInterrupt v s).regs = s.regs := rfl
@[simp] theorem takeInterrupt_stopped (v : Byte) (s : State) : (takeInterrupt v s).stopped = s.stopped := rfl
@[simp] theorem takeInterrupt_prefetch (v : Byte) (s : State) : (takeInterrupt v s).prefetch = s.prefetch := rfl
@[simp] theorem takeInterrupt_mem (v : Byte) (s : State) : (takeInterrupt v s).mem = s.mem := rfl
@[simp] theorem takeInterrupt_px (v : Byte) (s : State) : (takeInterrupt v s).px = s.px := rfl
@[simp] theorem takeInterrupt_prefixes (v : Byte) (s : State) : (takeInterrupt v s).prefixes = 0 := rfl
@[simp] theorem takeInterrupt_event (v : Byte) (s : State) :
    (takeInterrupt v s).event = some (.interrupt v s.regs.cs s.regs.ip) := rfl
@[simp] theorem takeInterrupt_now (v : Byte) (s : State) : (takeInterrupt v s).now = s.now := rfl
@[simp] theorem takeInterrupt_inputs (v : Byte) (s : State) : (takeInterrupt v s).inputs = s.inputs := rfl
@[simp] theorem takeInterrupt_params (v : Byte) (s : State) : (takeInterrupt v s).params = s.params := rfl
@[simp] theorem takeInterrupt_draws (v : Byte) (s : State) : (takeInterrupt v s).draws = s.draws := rfl

/-! ### storeMem -/

@[simp] theorem storeMem_regs (n : Nat) (f : Memory → Memory) (s : State) : (storeMem n f s).regs = s.regs := rfl
@[simp] theorem storeMem_stopped (n : Nat) (f : Memory → Memory) (s : State) : (storeMem n f s).stopped = s.stopped := rfl
@[simp] theorem storeMem_prefetch (n : Nat) (f : Memory → Memory) (s : State) :
    (storeMem n f s).prefetch = prefetchAhead n s := rfl
@[simp] theorem storeMem_mem (n : Nat) (f : Memory → Memory) (s : State) : (storeMem n f s).mem = f s.mem := rfl
@[simp] theorem storeMem_px (n : Nat) (f : Memory → Memory) (s : State) : (storeMem n f s).px = s.px := rfl
@[simp] theorem storeMem_prefixes (n : Nat) (f : Memory → Memory) (s : State) :
    (storeMem n f s).prefixes = s.prefixes := rfl
@[simp] theorem storeMem_event (n : Nat) (f : Memory → Memory) (s : State) : (storeMem n f s).event = s.event := rfl
@[simp] theorem storeMem_now (n : Nat) (f : Memory → Memory) (s : State) : (storeMem n f s).now = s.now := rfl
@[simp] theorem storeMem_inputs (n : Nat) (f : Memory → Memory) (s : State) : (storeMem n f s).inputs = s.inputs := rfl
@[simp] theorem storeMem_params (n : Nat) (f : Memory → Memory) (s : State) : (storeMem n f s).params = s.params := rfl
@[simp] theorem storeMem_draws (n : Nat) (f : Memory → Memory) (s : State) :
    (storeMem n f s).draws = s.draws + (n + s.params.prefetchDepth) := rfl

/-! ### scramble -/

@[simp] theorem scramble_regs (s : State) : (scramble s).regs = freeRegs s.draws s.regs := rfl
@[simp] theorem scramble_stopped (s : State) : (scramble s).stopped = s.stopped := rfl
@[simp] theorem scramble_prefetch (s : State) : (scramble s).prefetch = [] := rfl
@[simp] theorem scramble_mem (s : State) : (scramble s).mem = s.mem.setBytes (Config.freeWrites s.draws) := rfl
@[simp] theorem scramble_px (s : State) : (scramble s).px = s.px := rfl
@[simp] theorem scramble_prefixes (s : State) : (scramble s).prefixes = 0 := rfl
@[simp] theorem scramble_event (s : State) : (scramble s).event = none := rfl
@[simp] theorem scramble_now (s : State) : (scramble s).now = s.now := rfl
@[simp] theorem scramble_inputs (s : State) : (scramble s).inputs = s.inputs := rfl
@[simp] theorem scramble_params (s : State) : (scramble s).params = s.params := rfl
@[simp] theorem scramble_draws (s : State) : (scramble s).draws = s.draws + freeRegsDraws := rfl

/-! ### enterStopped -/

@[simp] theorem enterStopped_regs (s : State) : (enterStopped s).regs = freeRegs s.draws s.regs := rfl
@[simp] theorem enterStopped_stopped (s : State) : (enterStopped s).stopped = true := rfl
@[simp] theorem enterStopped_prefetch (s : State) : (enterStopped s).prefetch = [] := rfl
@[simp] theorem enterStopped_mem (s : State) :
    (enterStopped s).mem = s.mem.setBytes (Config.freeWrites s.draws) := rfl
@[simp] theorem enterStopped_px (s : State) : (enterStopped s).px = s.px := rfl
@[simp] theorem enterStopped_prefixes (s : State) : (enterStopped s).prefixes = 0 := rfl
@[simp] theorem enterStopped_event (s : State) : (enterStopped s).event = none := rfl
@[simp] theorem enterStopped_now (s : State) : (enterStopped s).now = s.now := rfl
@[simp] theorem enterStopped_inputs (s : State) : (enterStopped s).inputs = s.inputs := rfl
@[simp] theorem enterStopped_params (s : State) : (enterStopped s).params = s.params := rfl
@[simp] theorem enterStopped_draws (s : State) : (enterStopped s).draws = s.draws + freeRegsDraws := rfl

/-! ### resetProcessor -/

@[simp] theorem resetProcessor_regs (s : State) : (resetProcessor s).regs = s.params.resetRegs := rfl
@[simp] theorem resetProcessor_stopped (s : State) : (resetProcessor s).stopped = false := rfl
@[simp] theorem resetProcessor_prefetch (s : State) : (resetProcessor s).prefetch = [] := rfl
@[simp] theorem resetProcessor_mem (s : State) : (resetProcessor s).mem = s.mem := rfl
@[simp] theorem resetProcessor_px (s : State) : (resetProcessor s).px = s.px := rfl
@[simp] theorem resetProcessor_prefixes (s : State) : (resetProcessor s).prefixes = 0 := rfl
@[simp] theorem resetProcessor_event (s : State) : (resetProcessor s).event = none := rfl
@[simp] theorem resetProcessor_now (s : State) : (resetProcessor s).now = s.now := rfl
@[simp] theorem resetProcessor_inputs (s : State) : (resetProcessor s).inputs = s.inputs := rfl
@[simp] theorem resetProcessor_params (s : State) : (resetProcessor s).params = s.params := rfl
@[simp] theorem resetProcessor_draws (s : State) : (resetProcessor s).draws = s.draws := rfl

/-! ### placeCode -/

@[simp] theorem placeCode_regs (bs : List Byte) (s : State) : (placeCode bs s).regs = s.regs := rfl
@[simp] theorem placeCode_stopped (bs : List Byte) (s : State) : (placeCode bs s).stopped = s.stopped := rfl
@[simp] theorem placeCode_prefetch (bs : List Byte) (s : State) : (placeCode bs s).prefetch = [] := rfl
@[simp] theorem placeCode_mem (bs : List Byte) (s : State) :
    (placeCode bs s).mem = placeBytes s.mem (fetchBase s) bs := rfl
@[simp] theorem placeCode_px (bs : List Byte) (s : State) : (placeCode bs s).px = s.px := rfl
@[simp] theorem placeCode_prefixes (bs : List Byte) (s : State) : (placeCode bs s).prefixes = s.prefixes := rfl
@[simp] theorem placeCode_event (bs : List Byte) (s : State) : (placeCode bs s).event = s.event := rfl
@[simp] theorem placeCode_now (bs : List Byte) (s : State) : (placeCode bs s).now = s.now := rfl
@[simp] theorem placeCode_inputs (bs : List Byte) (s : State) : (placeCode bs s).inputs = s.inputs := rfl
@[simp] theorem placeCode_params (bs : List Byte) (s : State) : (placeCode bs s).params = s.params := rfl
@[simp] theorem placeCode_draws (bs : List Byte) (s : State) : (placeCode bs s).draws = s.draws := rfl

/-! ### advance -/

@[simp] theorem advance_regs (len : Nat) (s : State) : (advance len s).regs = { s.regs with ip := nextIp len s } := rfl
@[simp] theorem advance_stopped (len : Nat) (s : State) : (advance len s).stopped = s.stopped := rfl
@[simp] theorem advance_prefetch (len : Nat) (s : State) : (advance len s).prefetch = s.prefetch.drop len := rfl
@[simp] theorem advance_mem (len : Nat) (s : State) : (advance len s).mem = s.mem := rfl
@[simp] theorem advance_px (len : Nat) (s : State) : (advance len s).px = s.px := rfl
@[simp] theorem advance_prefixes (len : Nat) (s : State) : (advance len s).prefixes = 0 := rfl
@[simp] theorem advance_event (len : Nat) (s : State) : (advance len s).event = s.event := rfl
@[simp] theorem advance_now (len : Nat) (s : State) : (advance len s).now = s.now := rfl
@[simp] theorem advance_inputs (len : Nat) (s : State) : (advance len s).inputs = s.inputs := rfl
@[simp] theorem advance_params (len : Nat) (s : State) : (advance len s).params = s.params := rfl
@[simp] theorem advance_draws (len : Nat) (s : State) : (advance len s).draws = s.draws + 1 := rfl

/-! ### jumpTo -/

@[simp] theorem jumpTo_regs (v : Word) (s : State) : (jumpTo v s).regs = { s.regs with ip := v } := rfl
@[simp] theorem jumpTo_stopped (v : Word) (s : State) : (jumpTo v s).stopped = s.stopped := rfl
@[simp] theorem jumpTo_prefetch (v : Word) (s : State) : (jumpTo v s).prefetch = [] := rfl
@[simp] theorem jumpTo_mem (v : Word) (s : State) : (jumpTo v s).mem = s.mem := rfl
@[simp] theorem jumpTo_px (v : Word) (s : State) : (jumpTo v s).px = s.px := rfl
@[simp] theorem jumpTo_prefixes (v : Word) (s : State) : (jumpTo v s).prefixes = 0 := rfl
@[simp] theorem jumpTo_event (v : Word) (s : State) : (jumpTo v s).event = s.event := rfl
@[simp] theorem jumpTo_now (v : Word) (s : State) : (jumpTo v s).now = s.now := rfl
@[simp] theorem jumpTo_inputs (v : Word) (s : State) : (jumpTo v s).inputs = s.inputs := rfl
@[simp] theorem jumpTo_params (v : Word) (s : State) : (jumpTo v s).params = s.params := rfl
@[simp] theorem jumpTo_draws (v : Word) (s : State) : (jumpTo v s).draws = s.draws := rfl

/-! ### writeDuringStep -/

@[simp] theorem writeDuringStep_regs (w : List (Addr × Byte)) (s : State) : (writeDuringStep w s).regs = s.regs := rfl
@[simp] theorem writeDuringStep_stopped (w : List (Addr × Byte)) (s : State) :
    (writeDuringStep w s).stopped = s.stopped := rfl
@[simp] theorem writeDuringStep_prefetch (w : List (Addr × Byte)) (s : State) :
    (writeDuringStep w s).prefetch = s.prefetch := rfl
@[simp] theorem writeDuringStep_mem (w : List (Addr × Byte)) (s : State) : (writeDuringStep w s).mem = s.mem := rfl
@[simp] theorem writeDuringStep_px (w : List (Addr × Byte)) (s : State) : (writeDuringStep w s).px = s.px := rfl
@[simp] theorem writeDuringStep_prefixes (w : List (Addr × Byte)) (s : State) :
    (writeDuringStep w s).prefixes = s.prefixes := rfl
@[simp] theorem writeDuringStep_event (w : List (Addr × Byte)) (s : State) :
    (writeDuringStep w s).event = s.event := rfl
@[simp] theorem writeDuringStep_now (w : List (Addr × Byte)) (s : State) :
    (writeDuringStep w s).now = { s.now with writes := w ++ s.now.writes } := rfl
@[simp] theorem writeDuringStep_inputs (w : List (Addr × Byte)) (s : State) :
    (writeDuringStep w s).inputs = s.inputs := rfl
@[simp] theorem writeDuringStep_params (w : List (Addr × Byte)) (s : State) :
    (writeDuringStep w s).params = s.params := rfl
@[simp] theorem writeDuringStep_draws (w : List (Addr × Byte)) (s : State) :
    (writeDuringStep w s).draws = s.draws := rfl

/-! ### withSavedRegs -/

@[simp] theorem withSavedRegs_regs (i : StringInstr) (f : StringFault) (s : State) :
    (withSavedRegs i f s).regs = { s.regs with
      si := s.regs.si - siFix f, di := s.regs.di - diFix f
      cx := if cxFromStart s.params.stepping f then i.startCx else s.regs.cx - cxFix f } := rfl
@[simp] theorem withSavedRegs_stopped (i : StringInstr) (f : StringFault) (s : State) :
    (withSavedRegs i f s).stopped = s.stopped := rfl
@[simp] theorem withSavedRegs_prefetch (i : StringInstr) (f : StringFault) (s : State) :
    (withSavedRegs i f s).prefetch = s.prefetch := rfl
@[simp] theorem withSavedRegs_mem (i : StringInstr) (f : StringFault) (s : State) :
    (withSavedRegs i f s).mem = s.mem := rfl
@[simp] theorem withSavedRegs_px (i : StringInstr) (f : StringFault) (s : State) :
    (withSavedRegs i f s).px = s.px := rfl
@[simp] theorem withSavedRegs_prefixes (i : StringInstr) (f : StringFault) (s : State) :
    (withSavedRegs i f s).prefixes = s.prefixes := rfl
@[simp] theorem withSavedRegs_event (i : StringInstr) (f : StringFault) (s : State) :
    (withSavedRegs i f s).event = s.event := rfl
@[simp] theorem withSavedRegs_now (i : StringInstr) (f : StringFault) (s : State) :
    (withSavedRegs i f s).now = s.now := rfl
@[simp] theorem withSavedRegs_inputs (i : StringInstr) (f : StringFault) (s : State) :
    (withSavedRegs i f s).inputs = s.inputs := rfl
@[simp] theorem withSavedRegs_params (i : StringInstr) (f : StringFault) (s : State) :
    (withSavedRegs i f s).params = s.params := rfl
@[simp] theorem withSavedRegs_draws (i : StringInstr) (f : StringFault) (s : State) :
    (withSavedRegs i f s).draws = s.draws := rfl

/-! ### looseReg -/

@[simp] theorem looseReg_regs (x : Reg) (s : State) :
    (looseReg x s).regs = s.regs.setGpr x (Config.freeWord s.draws) := rfl
@[simp] theorem looseReg_stopped (x : Reg) (s : State) : (looseReg x s).stopped = s.stopped := rfl
@[simp] theorem looseReg_prefetch (x : Reg) (s : State) : (looseReg x s).prefetch = s.prefetch := rfl
@[simp] theorem looseReg_mem (x : Reg) (s : State) : (looseReg x s).mem = s.mem := rfl
@[simp] theorem looseReg_px (x : Reg) (s : State) : (looseReg x s).px = s.px := rfl
@[simp] theorem looseReg_prefixes (x : Reg) (s : State) : (looseReg x s).prefixes = s.prefixes := rfl
@[simp] theorem looseReg_event (x : Reg) (s : State) : (looseReg x s).event = s.event := rfl
@[simp] theorem looseReg_now (x : Reg) (s : State) : (looseReg x s).now = s.now := rfl
@[simp] theorem looseReg_inputs (x : Reg) (s : State) : (looseReg x s).inputs = s.inputs := rfl
@[simp] theorem looseReg_params (x : Reg) (s : State) : (looseReg x s).params = s.params := rfl
@[simp] theorem looseReg_draws (x : Reg) (s : State) : (looseReg x s).draws = s.draws + 1 := rfl

/-! ### Sampling an input -/

@[simp] theorem pxProgress_now (s : State) : (pxProgress s).now = s.now := rfl
@[simp] theorem pxProgress_regs (s : State) : (pxProgress s).regs = s.regs := rfl

/-- A step that no input is left for has a quiet environment. -/
theorem sampleInput_quiet {s : State} (h : s.inputs = []) : sampleInput s = { s with now := Input.quiet } := by
  cases s
  cases h
  rfl

/-- Sampling touches the 80287, the environment and the count of free values alone. -/
theorem sampleInput_frame (s : State) :
    (sampleInput s).regs = s.regs ∧ (sampleInput s).stopped = s.stopped ∧ (sampleInput s).prefetch = s.prefetch ∧
      (sampleInput s).mem = s.mem ∧ (sampleInput s).prefixes = s.prefixes ∧ (sampleInput s).event = s.event ∧
      (sampleInput s).params = s.params := by
  unfold sampleInput admitTransfer pxProgress pxResetPin nextInput
  cases s.inputs <;> simp only [] <;> split <;> split <;> first | exact ⟨rfl, rfl, rfl, rfl, rfl, rfl, rfl⟩ | skip
  all_goals split <;> exact ⟨rfl, rfl, rfl, rfl, rfl, rfl, rfl⟩

/-! ### Mode and level after an outcome is recorded or memory is stored to -/

@[simp] theorem takeException_isProtected (n : Nat) (code : Option Word) (s : State) :
    (takeException n code s).isProtected = s.isProtected := rfl
@[simp] theorem takeInterrupt_isProtected (v : Byte) (s : State) : (takeInterrupt v s).isProtected = s.isProtected := rfl
@[simp] theorem storeMem_isProtected (n : Nat) (f : Memory → Memory) (s : State) :
    (storeMem n f s).isProtected = s.isProtected := rfl

/-! ### A segment register replaced -/

@[simp] theorem setSeg_seg_self (r : Regs) (x : SegReg) (v : Word) (c : Cache) : (r.setSeg x v c).seg x = v := by
  cases x <;> rfl
@[simp] theorem setSeg_cache_self (r : Regs) (x : SegReg) (v : Word) (c : Cache) : (r.setSeg x v c).cache x = c := by
  cases x <;> rfl
theorem setSeg_seg_other (r : Regs) (x y : SegReg) (v : Word) (c : Cache) (h : y ≠ x) :
    (r.setSeg x v c).seg y = r.seg y := by
  cases x <;> cases y <;> first | rfl | exact absurd rfl h
theorem setSeg_cache_other (r : Regs) (x y : SegReg) (v : Word) (c : Cache) (h : y ≠ x) :
    (r.setSeg x v c).cache y = r.cache y := by
  cases x <;> cases y <;> first | rfl | exact absurd rfl h
@[simp] theorem setSeg_gpr (r : Regs) (x : SegReg) (v : Word) (c : Cache) (g : Reg) : (r.setSeg x v c).gpr g = r.gpr g := by
  cases x <;> cases g <;> rfl
@[simp] theorem setSeg_flags (r : Regs) (x : SegReg) (v : Word) (c : Cache) : (r.setSeg x v c).flags = r.flags := by
  cases x <;> rfl
@[simp] theorem setSeg_msw (r : Regs) (x : SegReg) (v : Word) (c : Cache) : (r.setSeg x v c).msw = r.msw := by
  cases x <;> rfl

/-! ### A general register replaced -/

@[simp] theorem setGpr_gpr_self (r : Regs) (x : Reg) (v : Word) : (r.setGpr x v).gpr x = v := by cases x <;> rfl
theorem setGpr_gpr_other (r : Regs) (x y : Reg) (v : Word) (h : y ≠ x) : (r.setGpr x v).gpr y = r.gpr y := by
  cases x <;> cases y <;> first | rfl | exact absurd rfl h
@[simp] theorem setGpr_cache (r : Regs) (x : Reg) (v : Word) (y : SegReg) : (r.setGpr x v).cache y = r.cache y := by
  cases x <;> cases y <;> rfl

end Sys2Proof.Machine
end

