-- ==== Sys2Proof/Laws/Ops.lean ====
section
/-! SUPPORT. One lemma per shared operation: what it can answer. -/

namespace Sys2Proof.Machine

/-! ### Outcomes -/

@[simp] theorem mapNext_next (f : State → State) (s : State) : mapNext f (.next s) = .next (f s) := rfl
@[simp] theorem mapNext_fault (f : State → State) (r : Fault) : mapNext f (.fault r) = .fault r := rfl
@[simp] theorem mapNext_refused (f : State → State) (r : Refusal) : mapNext f (.refused r) = .refused r := rfl
@[simp] theorem andThen_next (s : State) (f : State → Outcome) : andThen (.next s) f = f s := rfl
@[simp] theorem andThen_fault (r : Fault) (f : State → Outcome) : andThen (.fault r) f = .fault r := rfl
@[simp] theorem andThen_refused (r : Refusal) (f : State → Outcome) : andThen (.refused r) f = .refused r := rfl

/-- A next state under `mapNext` comes from one. -/
theorem mapNext_cases {f : State → State} {o : Outcome} {t : State} (h : mapNext f o = .next t) :
    ∃ s, o = .next s ∧ t = f s := by
  cases o with
  | next s => exact ⟨s, rfl, by simpa using h.symm⟩
  | fault r => cases h
  | refused r => cases h

/-- A next state of a sequence goes through one. -/
theorem andThen_cases {f : State → Outcome} {o : Outcome} {t : State} (h : andThen o f = .next t) :
    ∃ s, o = .next s ∧ f s = .next t := by
  cases o with
  | next s => exact ⟨s, rfl, h⟩
  | fault r => cases h
  | refused r => cases h

/-! ### Privilege and exceptions -/

/-- A question about CPL has an answer where both candidates give it. -/
theorem askCpl_eq_some {α : Type} [DecidableEq α] {s : State} {p : Level → α} {b : α} :
    s.askCpl p = some b ↔ p s.csDpl = b ∧ p s.ssDpl = b := by
  unfold State.askCpl
  split
  · next h => rw [← h]; simp
  · next h => simp only [false_iff, reduceCtorEq]; rintro ⟨h1, h2⟩; exact h (h1.trans h2.symm)

/-- A question about CPL has no answer where the candidates differ. -/
theorem askCpl_eq_none {α : Type} [DecidableEq α] {s : State} {p : Level → α} : s.askCpl p = none ↔ p s.csDpl ≠ p s.ssDpl := by
  unfold State.askCpl
  split <;> simp_all

/-- Where both fields are the level `l`, a question about CPL is answered for `l`. -/
theorem askCpl_at {α : Type} [DecidableEq α] {s : State} {p : Level → α} {l : Level} (hc : s.csDpl = l)
    (hs : s.ssDpl = l) : s.askCpl p = some (p l) := askCpl_eq_some.2 ⟨by rw [hc], by rw [hs]⟩

/-- A `Stop` that has a next state is an exception with the IP given. -/
theorem raiseAt_cases {st : Stop} {ip : Word} {s t : State} (h : raiseAt st ip s = .next t) :
    ∃ n code d, t = takeExceptionAt n code ip { s with draws := d } := by
  cases st with
  | exception n code => exact ⟨n, code, s.draws, by simpa [raiseAt] using h.symm⟩
  | exception12or13 => exact ⟨_, _, _, by simpa [raiseAt] using h.symm⟩
  | refuse r => cases h
  | fault f => cases h

/-- A `Stop` that has a next state is an exception at the state before. -/
theorem raise_cases {st : Stop} {s t : State} (h : raise st s = .next t) :
    ∃ n code d, t = takeException n code { s with draws := d } := raiseAt_cases h

/-- A stop of a reference leaves the state before the instruction, or what it may have written unspecified. -/
theorem raiseLoose_cases (x : SegReg) (off n : Nat) (st : Stop) (ip : Word) (loose : State → State) (s : State) :
    raiseLoose x off n st ip loose s = raiseAt st ip s ∨
      (limitViolated x off n s = true ∧ x ≠ .ss ∧ raiseLoose x off n st ip loose s = raiseAt st ip (loose s)) := by
  unfold raiseLoose
  split
  · next h => simp only [Bool.and_eq_true, bne_iff_ne, ne_eq] at h; exact .inr ⟨h.1, h.2, rfl⟩
  · exact .inl rfl

/-- IP after an instruction that does not pass FFFFH. -/
theorem nextIp_of_lt {len : Nat} {s : State} (h : s.regs.ip.toNat + len < 2 ^ 16) :
    nextIp len s = s.regs.ip + BitVec.ofNat 16 len := if_pos h

/-- The privilege rule of LOADALL and 0F04H: the body in real mode and at CPL 0, exception 13 where both candidates for CPL
are not 0, a refusal else. -/
theorem requireCpl0_cases (code : Word) (body : State → Outcome) (s : State) :
    ((s.isProtected = false ∨ (s.csDpl = 0 ∧ s.ssDpl = 0)) ∧ requireCpl0 code body s = body s) ∨
    (s.isProtected = true ∧ s.csDpl ≠ 0 ∧ s.ssDpl ≠ 0 ∧
      requireCpl0 code body s = .next (protectionException code s)) ∨
    (s.isProtected = true ∧ (s.csDpl = 0 ↔ s.ssDpl ≠ 0) ∧ requireCpl0 code body s = .refused .cplUnspecified) := by
  unfold requireCpl0 State.askCpl
  by_cases hp : s.isProtected = true <;> by_cases hc : s.csDpl = 0#2 <;> by_cases hs : s.ssDpl = 0#2 <;>
    simp [hp, hc, hs, beq_eq_false_iff_ne.mpr]

/-! ### References through a segment register -/

/-- The physical address of a reference, where it has one, is base plus offset. -/
theorem physAddr_ok {w : Option PhysWrap} {b : Addr} {off n : Nat} {a : Addr} (h : physAddr w b off n = .ok a) :
    a = b + BitVec.ofNat 24 off := by
  unfold physAddr at h
  split at h
  · simpa using h.symm
  · split at h
    · simpa using h.symm
    · cases h
    · cases h

/-- A reference that is made passed the valid bit, limit and rights checks, at base plus offset. -/
theorem segAccess_ok {x : SegReg} {off n : Nat} {k : Kind} {later : Bool} {s : State} {a : Addr}
    (h : segAccess x off n k later s = .ok a) :
    (s.regs.cache x).valid = true ∧ (s.regs.cache x).withinLimit off n = true ∧
      rights x (s.regs.cache x) k = .allowed ∧ a = (s.regs.cache x).base + BitVec.ofNat 24 off := by
  unfold segAccess at h
  simp only at h
  split at h
  · cases h
  · next hv =>
    split at h
    · cases h
    · next hl =>
      split at h
      · cases h
      · cases h
      · next hr => exact ⟨by simpa using hv, by simpa using hl, hr, physAddr_ok h⟩

/-- A reference through an invalid cache. -/
theorem segAccess_invalid {x : SegReg} {off n : Nat} {k : Kind} {later : Bool} {s : State}
    (h : (s.regs.cache x).valid = false) : segAccess x off n k later s = .error (invalidStop x) := by
  simp [segAccess, h]

/-- A reference beyond the limit of a valid cache. -/
theorem segAccess_limit {x : SegReg} {off n : Nat} {k : Kind} {later : Bool} {s : State}
    (h : (s.regs.cache x).valid = true) (hl : (s.regs.cache x).withinLimit off n = false) :
    segAccess x off n k later s = .error (limitStop x later) := by
  simp [segAccess, h, hl]

/-- A reference depends on the caches and the parameters alone. -/
theorem segAccess_congr {x : SegReg} {off n : Nat} {k : Kind} {later : Bool} {s t : State} (hr : t.regs = s.regs)
    (hp : t.params = s.params) : segAccess x off n k later t = segAccess x off n k later s := by
  simp [segAccess, hr, hp]

/-- The address of a fetch depends on the registers and the parameters alone. -/
theorem fetchAddr_congr {k : Nat} {s t : State} (hr : t.regs = s.regs) (hp : t.params = s.params) :
    fetchAddr k t = fetchAddr k s := by
  simp [fetchAddr, hr, segAccess_congr hr hp]

/-- A fetched byte depends on the registers, the prefetched bytes, memory and the parameters alone. -/
theorem fetchByte_congr {k : Nat} {s t : State} (hr : t.regs = s.regs) (hq : t.prefetch = s.prefetch)
    (hm : t.mem = s.mem) (hp : t.params = s.params) : fetchByte k t = fetchByte k s := by
  simp [fetchByte, hq, hm, fetchAddr_congr hr hp]

/-- A fetch that is made has its offset within 0 to FFFFH. -/
theorem fetchAddr_ok {k : Nat} {s : State} {a : Addr} (h : fetchAddr k s = .ok a) :
    s.regs.ip.toNat + k ≤ 0xFFFF ∧
      a = s.regs.csCache.base + BitVec.ofNat 24 s.regs.ip.toNat + BitVec.ofNat 24 k := by
  unfold fetchAddr at h
  cases hs : segAccess .cs s.regs.ip.toNat (k + 1) .fetch false s with
  | error st => rw [hs] at h; cases h
  | ok b =>
    rw [hs] at h
    obtain ⟨_, hl, _, hb⟩ := segAccess_ok hs
    refine ⟨?_, ?_⟩
    · have hlim := (s.regs.cache .cs).limit.isLt
      unfold Cache.withinLimit at hl
      split at hl <;> simp only [Bool.and_eq_true, decide_eq_true_eq] at hl <;> omega
    · simp only [Except.map, Except.ok.injEq] at h
      rw [← h, hb]
      rfl

/-- A fetch through an invalid CS cache raises exception 13 with error code 0. -/
theorem fetchByte_invalid {k : Nat} {s : State} (h : s.regs.csCache.valid = false) :
    fetchByte k s = .error (.exception 13 zeroCode) := by
  have hs : segAccess .cs s.regs.ip.toNat (k + 1) .fetch false s = .error (invalidStop .cs) := segAccess_invalid h
  simp only [fetchByte, fetchAddr, hs, Except.map, invalidStop]

/-- A fetch beyond the limit of the CS cache raises exception 13 with error code 0. -/
theorem fetchByte_limit {k : Nat} {s : State} (h : s.regs.csCache.valid = true)
    (hl : s.regs.csCache.withinLimit s.regs.ip.toNat (k + 1) = false) :
    fetchByte k s = .error (.exception 13 zeroCode) := by
  have hs : segAccess .cs s.regs.ip.toNat (k + 1) .fetch false s = .error (limitStop .cs false) := segAccess_limit h hl
  simp [fetchByte, fetchAddr, hs, Except.map, limitStop]

/-- A byte fetched: from the prefetch queue or from memory. -/
theorem fetchByte_cases {k : Nat} {s : State} {b : Byte} (h : fetchByte k s = .ok b) :
    ∃ a, fetchAddr k s = .ok a ∧ ((s.prefetch[k]?).join = some b ∨ (s.prefetch[k]?).join = none ∧ b = s.mem.byte a) := by
  unfold fetchByte at h
  split at h
  · cases h
  · next a ha =>
    refine ⟨a, ha, ?_⟩
    split at h
    · next c hc => cases h; exact .inl hc
    · next hc => cases h; exact .inr ⟨hc, rfl⟩

/-- The base of the cache after a real mode load is the paragraph id times 16. -/
theorem realCache_base (p : Word) : (realCache p).base.toNat = 16 * p.toNat := by
  have h : (realCache p).base = (0#4 ++ p : BitVec (4 + 16)) ++ 0#4 := rfl
  rw [h, BitVec.toNat_append, BitVec.toNat_append]
  simp [Nat.shiftLeft_eq]
  omega

/-! ### Instructions -/

/-- LOADALL: the registers of the area, or exception 13. -/
theorem execLoadall_cases {s t : State} (h : execLoadall s = .next t) :
    ((s.isProtected = false ∨ (s.csDpl = 0 ∧ s.ssDpl = 0)) ∧
      (s.isProtected = true → (areaWord 0x06 s).getLsbD 0 = true) ∧ areaByte 0x51 s = 0 ∧ areaByte 0x5D s = 0 ∧
      t = { s with regs := loadedRegs s, prefetch := [], prefixes := 0, draws := s.draws + loadallDraws }) ∨
    (s.isProtected = true ∧ t = takeException 13 (some 0) s) := by
  unfold execLoadall at h
  obtain ⟨hm, he⟩ | ⟨hp, _, _, he⟩ | ⟨_, _, he⟩ := requireCpl0_cases 0 loadallBody s
  · rw [he] at h
    unfold loadallBody at h
    split at h
    · cases h
    · next h1 =>
      split at h
      · cases h
      · next h2 =>
        cases h
        simp only [Bool.or_eq_true, bne_iff_ne, ne_eq, not_or, not_not] at h2
        exact .inl ⟨hm, by simpa using h1, h2.1, h2.2, rfl⟩
  · rw [he] at h; cases h; exact .inr ⟨hp, rfl⟩
  · rw [he] at h; cases h

/-- 0F04H: the processor stops, or exception 13. -/
theorem execOp0F04_cases {s t : State} (h : execOp0F04 s = .next t) :
    t = enterStopped s ∨ (s.isProtected = true ∧ t = takeException 13 (some s.params.op0F04ErrorCode) s) := by
  unfold execOp0F04 at h
  obtain ⟨_, he⟩ | ⟨hp, _, _, he⟩ | ⟨_, _, he⟩ := requireCpl0_cases s.params.op0F04ErrorCode (fun s => .next (enterStopped s)) s
  · rw [he] at h; cases h; exact .inl rfl
  · rw [he] at h; cases h; exact .inr ⟨hp, rfl⟩
  · rw [he] at h; cases h

/-- What any instruction that has a next state does. -/
theorem exec_cases {i : Instr} {s t : State} (h : exec i s = .next t) :
    (i = .loadall ∧ execLoadall s = .next t) ∨ (i = .op0F04 ∧ execOp0F04 s = .next t) ∨
      (i = .pfxF1 ∧ t = { s with prefixes := s.prefixes + 1 }) := by
  cases i with
  | loadall => exact .inl ⟨rfl, h⟩
  | op0F04 => exact .inr (.inl ⟨rfl, h⟩)
  | pfxF1 => exact .inr (.inr ⟨rfl, by simpa [exec, execPfxF1] using h.symm⟩)
  | shiftD0Reg6 m r => simp only [exec, execShiftD0Reg6, shiftReg6] at h; split at h <;> cases h
  | shiftD1Reg6 m r => simp only [exec, execShiftD1Reg6, shiftReg6] at h; split at h <;> cases h
  | _ => cases h

/-! ### The step -/

/-- The instruction at CS:IP, or the exception of its fetch. -/
theorem runInstruction_cases {s t : State} (h : runInstruction s = .next t) :
    (∃ i, fetchDecode s = .instr i ∧ exec i s = .next t) ∨ ∃ n code d, t = takeException n code { s with draws := d } := by
  unfold runInstruction at h
  split at h
  · next i hi => exact .inl ⟨i, hi, h⟩
  · exact .inr (raise_cases h)

/-- An instruction that is executed is not too long. -/
theorem fetchDecode_length {s : State} {i : Instr} (h : fetchDecode s = .instr i) :
    ∃ n, 0 < n ∧ lengthAllowed s.params.maxInsnLen (s.prefixes + n) = true ∧
      s.regs.ip.toNat + s.prefixes ≤ 0xFFFF := by
  have hcheck : ∀ {j : Instr} {n : Nat}, checkLength j n s = .instr i →
      lengthAllowed s.params.maxInsnLen (s.prefixes + n) = true := by
    intro j n hj
    unfold checkLength at hj
    split at hj
    · assumption
    · cases hj
  unfold fetchDecode at h
  split at h
  · cases h
  · next b hb =>
    obtain ⟨a, ha, _⟩ := fetchByte_cases hb
    have hip := (fetchAddr_ok ha).1
    split at h
    · next j n hd => exact ⟨n, decode_pos hd, hcheck h, hip⟩
    · cases h
    · split at h
      · cases h
      · next c hc =>
        unfold decodedTwo at h
        split at h
        · next j n hd => exact ⟨n, decode_pos hd, hcheck h, hip⟩
        · cases h
        · cases h

/-- A fetch that fails is the outcome of the instruction. -/
theorem runInstruction_of_fetch_error {s : State} {st : Stop} (h : fetchByte s.prefixes s = .error st) :
    runInstruction s = raise st s := by
  simp [runInstruction, fetchDecode, h]

/-- A fetch of the second byte that fails is the outcome of the instruction, where its first byte calls for one. -/
theorem runInstruction_of_second_fetch_error {s : State} {b : Byte} {st : Stop} (hb : fetchByte s.prefixes s = .ok b)
    (hn : needsSecondByte b = true) (h : fetchByte (s.prefixes + 1) s = .error st) : runInstruction s = raise st s := by
  have hd : decode [b] = .more := by simp [decode, hn]
  simp [runInstruction, fetchDecode, hb, hd, h]

/-- A step at which the processor goes on with the instruction at CS:IP. -/
theorem processorStep_instruction {s : State} (hr : s.now.reset = false) (hs : s.stopped = false) (he : s.event = none)
    (ht : s.now.transfer = none) (hi : enabledInterrupt s = none) : processorStep s = runInstruction s := by
  simp [processorStep, hr, hs, he, boundary, transferPhase, ht, interruptOrInstruction, hi]

/-- An enabled interrupt against the instruction at its boundary. -/
theorem interruptFirst_cases {v : Byte} {s : State} {o : Outcome} {t : State} (h : interruptFirst v s o = .next t) :
    (∃ u, o = .next u ∧ u.event.isSome = true ∧ t = { u with draws := u.draws + 1 }) ∨
      ∃ d, t = takeInterrupt v { s with draws := d } := by
  unfold interruptFirst at h
  split at h
  · next u =>
    split at h
    · next hu => cases h; simp only [Bool.and_eq_true] at hu; exact .inl ⟨u, rfl, hu.1, rfl⟩
    · cases h; exact .inr ⟨_, rfl⟩
  · cases h; exact .inr ⟨s.draws, rfl⟩
  · cases h; exact .inr ⟨s.draws, rfl⟩

/-- A data transfer of the processor extension: nothing, a word written during the step, or an exception. -/
theorem transferOp_cases {p : PxTransfer} {s t : State} (h : transferOp p s = .next t) :
    t = s ∨ (∃ a v, t = writeDuringStep (wordBytes a v) s) ∨ t = overrun p s ∨
      ∃ n code d, t = takeException n code { s with draws := d } := by
  unfold transferOp at h
  split at h
  · split at h
    · cases h; exact .inr (.inl ⟨_, _, rfl⟩)
    · cases h; exact .inl rfl
  · split at h
    · cases h; exact .inr (.inr (.inl rfl))
    · exact .inr (.inr (.inr (raise_cases h)))

/-- What the processor does in a step, all ways to a next state. -/
theorem processorStep_cases {s t : State} (h : processorStep s = .next t) :
    (s.now.reset = true ∧ t = resetProcessor s) ∨
    (s.now.reset = false ∧ s.stopped = true ∧ t = idleStopped s) ∨
    (s.now.reset = false ∧ s.stopped = false ∧ s.event.isSome = true ∧ t = enterHandler s) ∨
    (s.now.reset = false ∧ s.stopped = false ∧ s.event = none ∧ boundary s = .next t) := by
  unfold processorStep at h
  split at h
  · next h1 => cases h; exact .inl ⟨h1, rfl⟩
  · next h1 =>
    split at h
    · next h2 => cases h; exact .inr (.inl ⟨by simpa using h1, h2, rfl⟩)
    · next h2 =>
      split at h
      · next h3 => cases h; exact .inr (.inr (.inl ⟨by simpa using h1, by simpa using h2, h3, rfl⟩))
      · next h3 => exact .inr (.inr (.inr ⟨by simpa using h1, by simpa using h2, by simpa using h3, h⟩))

/-- An instruction boundary, all ways to a next state: an exception of a transfer, or after it an interrupt or an
instruction. -/
theorem boundary_cases {s t : State} (h : boundary s = .next t) :
    ∃ u, transferPhase s = .next u ∧ ((u.event.isSome = true ∧ t = u) ∨
      (u.event = none ∧ ((enabledInterrupt u = none ∧ runInstruction u = .next t) ∨
        ∃ v, enabledInterrupt u = some v ∧ interruptFirst v u (runInstruction u) = .next t))) := by
  obtain ⟨u, hu, h⟩ := andThen_cases h
  refine ⟨u, hu, ?_⟩
  split at h
  · next he => cases h; exact .inl ⟨he, rfl⟩
  · next he =>
    refine .inr ⟨by simpa using he, ?_⟩
    unfold interruptOrInstruction at h
    split at h
    · next hn => exact .inl ⟨hn, h⟩
    · next v hv => exact .inr ⟨v, hv, h⟩

/-- The end of a step: nothing, or the other bus masters' writes stored. -/
theorem finishStep_cases (s : State) :
    (s.now.writes = [] ∧ finishStep s = s) ∨
      (s.now.writes ≠ [] ∧ finishStep s = storeMem s.prefixes (fun m => m.setBytes s.now.writes) s) := by
  unfold finishStep
  cases h : s.now.writes <;> simp

end Sys2Proof.Machine
end

