-- ==== Sys2Proof/Laws/Area.lean ====
section
/-! SUPPORT. The LOADALL area: what its words and bytes are where no other bus master writes, and the erratum. -/

namespace Sys2Proof.Machine

/-- The low byte of two bytes put together. -/
theorem low_append (x y : Byte) : BitVec.extractLsb' 0 8 (x ++ y : BitVec (8 + 8)) = y := by
  apply BitVec.eq_of_getLsbD_eq
  intro j hj
  rw [BitVec.getLsbD_extractLsb', BitVec.getLsbD_append]
  simp [hj]

/-- The high byte of two bytes put together. -/
theorem high_append (x y : Byte) : BitVec.extractLsb' 8 8 (x ++ y : BitVec (8 + 8)) = x := by
  apply BitVec.eq_of_getLsbD_eq
  intro j hj
  rw [BitVec.getLsbD_extractLsb', BitVec.getLsbD_append]
  simp [hj]

/-- A word of the area is memory's where no other bus master writes. -/
theorem areaWord_quiet {s : State} (h : s.now.writes = []) (k : Nat) :
    areaWord k s = s.mem.word (Config.areaBase + BitVec.ofNat 24 k) := by
  simp [areaWord, h]

/-- A word of the area is the old or the new one of its address. -/
theorem areaWord_cases (s : State) (k : Nat) :
    areaWord k s = s.mem.word (Config.areaBase + BitVec.ofNat 24 k) ∨
      areaWord k s = (memAfterBus s).word (Config.areaBase + BitVec.ofNat 24 k) := by
  unfold areaWord
  split
  · exact .inl rfl
  · split
    · exact .inr rfl
    · exact .inl rfl

/-- A byte of the area is memory's where no other bus master writes. -/
theorem areaByte_quiet {s : State} (h : s.now.writes = []) {k : Nat} (hk : k < Config.areaLength) :
    areaByte k s = s.mem.byte (Config.areaBase + BitVec.ofNat 24 k) := by
  unfold Config.areaLength at hk
  unfold areaByte
  split
  · rw [areaWord_quiet h]
    exact low_append _ _
  · have hs : Config.areaBase + BitVec.ofNat 24 (k - 1) + 1 = Config.areaBase + BitVec.ofNat 24 k := by
      unfold Config.areaBase
      apply BitVec.eq_of_toNat_eq
      simp [BitVec.toNat_add]
      omega
    rw [areaWord_quiet h]
    unfold Memory.word
    rw [hs]
    exact high_append _ _

/-- No erratum in protected mode, on a later stepping, or where the bits and bus conditions rule it out. -/
theorem mswErratum_eq_false {s : State} (h : s.now.writes = [])
    (he : s.isProtected = true ∨ (s.mem.word 0x806).getLsbD 0 = true ∨ (s.mem.word 0x804).getLsbD 0 = false ∨
      (s.params.areaWaitStates = 0 ∧ busShared s.now = false) ∨ s.params.stepping = .later) :
    mswErratum s = false := by
  have h6 : areaWord 0x06 s = s.mem.word 0x806 := areaWord_quiet h 6
  have h4 : areaWord 0x04 s = s.mem.word 0x804 := areaWord_quiet h 4
  unfold mswErratum
  rw [h6, h4]
  rcases he with he | he | he | he | he
  · simp [he]
  · simp only [he, Bool.not_true, Bool.and_false, Bool.false_and]
  · simp only [he, Bool.and_false, Bool.false_and]
  · simp [he]
  · simp [he]

end Sys2Proof.Machine
end

