-- ==== Sys2Proof/Laws/Facts.lean ====
section
/-! SUPPORT. The shared operations behind the facts of 42_other_instructions.md: what each can answer. -/

namespace Sys2Proof.Machine

/-! ### References -/

/-- A word written through a segment register is stored at the address of its reference. -/
theorem segWriteWord_cases (x : SegReg) (off v : Word) (len : Nat) (s : State) :
    (∃ a, segAccess x off.toNat 2 .write false s = .ok a ∧
      segWriteWord x off v len s = .ok (storeMem len (fun m => m.setWord a v) s)) ∨
    ∃ st, segAccess x off.toNat 2 .write false s = .error st ∧ segWriteWord x off v len s = .error st := by
  unfold segWriteWord
  cases segAccess x off.toNat 2 .write false s with
  | ok a => exact .inl ⟨a, rfl, rfl⟩
  | error st => exact .inr ⟨st, rfl, rfl⟩

/-- A word write that its reference stops. -/
theorem segWriteWord_error {x : SegReg} {off v : Word} {len : Nat} {s : State} {st : Stop}
    (h : segAccess x off.toNat 2 .write false s = .error st) : segWriteWord x off v len s = .error st := by
  simp [segWriteWord, h, Except.map]

/-- A limit violation as a test. -/
theorem limitViolated_iff {x : SegReg} {off n : Nat} {s : State} :
    limitViolated x off n s = true ↔ (s.regs.cache x).valid = true ∧ (s.regs.cache x).withinLimit off n = false := by
  simp [limitViolated]

/-- A reference that violates the limit stops with the exception of a limit violation. -/
theorem segAccess_of_limitViolated {x : SegReg} {off n : Nat} {k : Kind} {later : Bool} {s : State}
    (h : limitViolated x off n s = true) : segAccess x off n k later s = .error (limitStop x later) :=
  segAccess_limit (limitViolated_iff.1 h).1 (limitViolated_iff.1 h).2

/-- What may have been written of a stopped write lies at the addresses of its bytes to which a write is allowed. -/
theorem mem_looseBytes {x : SegReg} {off n : Nat} {s : State} {w : Addr × Byte} (h : w ∈ looseBytes x off n s) :
    ∃ k, k < n ∧ segAccess x (off + k) 1 .write false s = .ok w.1 := by
  unfold looseBytes at h
  rw [List.mem_filterMap] at h
  obtain ⟨k, hk, h⟩ := h
  split at h
  · next a ha => cases h; exact ⟨k, List.mem_range.1 hk, ha⟩
  · cases h

/-! ### Loading segment registers and control transfers -/

/-- A load of a segment register: refused, the exception that names the selector, or the register and what follows. -/
theorem loadSeg_cases {x : SegReg} {v : Word} {d : Option Cache} {fin : State → State} {s t : State}
    (h : loadSeg x v d fin s = .next t) :
    (s.isProtected = true ∧ t = protectionException (selectorErrorCode v) s) ∨
      ∃ c n, t = fin { s with regs := s.regs.setSeg x v c, draws := n } := by
  unfold loadSeg at h
  split at h
  · next hp =>
    split at h
    · unfold loadNull at h
      cases x <;> first | (cases h; exact .inr ⟨_, _, rfl⟩) | cases h
    · unfold loadDescriptor at h
      split at h
      · cases h
      · cases h; exact .inl ⟨hp, rfl⟩
      · cases h; exact .inr ⟨_, s.draws, rfl⟩
  · cases h; exact .inr ⟨_, s.draws, rfl⟩

/-- After a far control transfer nothing is prefetched, if it raised no exception. -/
theorem farTransfer_cases {cs ip : Word} {d : Option Cache} {s t : State} (h : farTransfer cs d ip s = .next t) :
    (s.isProtected = true ∧ t = protectionException (selectorErrorCode cs) s) ∨ (t.prefetch = [] ∧ t.regs.ip = ip) := by
  obtain h | ⟨c, n, rfl⟩ := loadSeg_cases h
  · exact .inl h
  · exact .inr ⟨rfl, rfl⟩

/-- A load on a return that does not fail: the descriptor has the level of the selector's RPL. -/
theorem returnLoadFails_eq_false {x : SegReg} {v : Word} {d : Option Cache} {l : Level}
    (h : returnLoadFails x v d l = false) :
    ∃ c, d = some c ∧ loadFails x v (some c) l = false ∧ c.dpl = selectorRpl v := by
  unfold returnLoadFails at h
  cases d with
  | none => simp [loadFails] at h
  | some c =>
    simp only [Bool.or_eq_false_iff, Option.map_some, bne_eq_false_iff_eq, Option.some.injEq] at h
    exact ⟨c, rfl, h.1, h.2⟩

/-- Whether a load on a return of a descriptor of the level of the RPL fails is what any load of it says. -/
theorem returnLoadFails_of_dpl {x : SegReg} {v : Word} {c : Cache} {l : Level} (h : c.dpl = selectorRpl v) :
    returnLoadFails x v (some c) l = loadFails x v (some c) l := by
  simp [returnLoadFails, h]

/-- A load on a return fails where there is no descriptor, or one of a level less than CPL or not the RPL. -/
theorem returnLoadFails_of_dpls {x : SegReg} {v : Word} {d : Option Cache} {l : Level}
    (h : ∀ c, d = some c → c.dpl < l ∨ c.dpl ≠ selectorRpl v) : returnLoadFails x v d l = true := by
  unfold returnLoadFails
  cases d with
  | none => simp [loadFails]
  | some c => rcases h c rfl with h | h <;> simp [loadFails, h]

/-- A return that no selector is at fault in: one level for CS and SS, and a descriptor of that level for each. -/
theorem returnFault_eq_none {f : ReturnFrame} {l : Level} (h : returnFault f l = none) :
    selectorRpl f.cs = selectorRpl f.ss ∧ (∃ c, f.csDesc = some c ∧ c.dpl = selectorRpl f.cs) ∧
      ∃ d, f.ssDesc = some d ∧ d.dpl = selectorRpl f.ss := by
  unfold returnFault at h
  split at h
  · cases h
  · next h1 =>
    split at h
    · cases h
    · next h2 =>
      split at h
      · cases h
      · next h3 =>
        obtain ⟨c, hc, _, hcl⟩ := returnLoadFails_eq_false (by simpa using h2)
        obtain ⟨d, hd, _, hdl⟩ := returnLoadFails_eq_false (by simpa using h3)
        exact ⟨not_not.1 h1, ⟨c, hc, hcl⟩, d, hd, hdl⟩

/-- The error code of a faulting return names CS or SS. -/
theorem returnFault_eq_some {f : ReturnFrame} {l : Level} {code : Word} (h : returnFault f l = some code) :
    code = selectorErrorCode f.cs ∨ code = selectorErrorCode f.ss := by
  unfold returnFault at h
  split at h
  · cases h; exact .inl rfl
  · split at h
    · cases h; exact .inl rfl
    · split at h
      · cases h; exact .inr rfl
      · cases h

/-- A return in protected mode that has a next state: no null selector, and exception 13 that names CS or SS, or the
transfer. -/
theorem protectedReturn_cases {f : ReturnFrame} {flags : Option Word} {s t : State}
    (h : protectedReturn f flags s = .next t) :
    f.null = false ∧ ((∃ code, s.askCpl (returnFault f) = some (some code) ∧ t = protectionException code s) ∨
      ∃ fl, flags = some fl ∧ s.askCpl (returnFault f) = some none ∧
        t = { s with regs := returnRegs f fl s.draws s.regs, prefetch := [], prefixes := 0, draws := s.draws + 5 }) := by
  unfold protectedReturn at h
  split at h
  · cases h
  · next hn =>
    refine ⟨by simpa using hn, ?_⟩
    split at h
    · cases h
    · next code hc => cases h; exact .inl ⟨code, hc, rfl⟩
    · next hc =>
      cases flags with
      | none => cases h
      | some fl => cases h; exact .inr ⟨fl, rfl, hc, rfl⟩

/-! ### The processor extension -/

/-- The end of a WAIT or ESC touches the 80287 and the count of free values alone. -/
theorem settlePx_cases (old : Px) (t : State) : ∃ p n, settlePx old t = { t with px := p, draws := n } := by
  unfold settlePx
  split
  · exact ⟨_, _, rfl⟩
  · exact ⟨t.px, t.draws, rfl⟩

/-- The 80287 is as the instruction leaves it where FNINIT is not called for. -/
theorem settlePx_of_not {old : Px} (h : old.needsInit = false) (t : State) : settlePx old t = t := by simp [settlePx, h]

/-- An ESC instruction that TS and ERROR let execute. -/
theorem escCheck_run {fninit : Bool} {body : State → Outcome} {s : State} (ht : mswTs s.regs.msw = false)
    (he : s.now.error = false) :
    escCheck fninit body s = if fninit then body s else mapNext (settlePx s.px) (body s) := by
  simp [escCheck, ht, he]

/-! ### String instructions -/

/-- The handler's correction undoes what the fault left, but for CX where it is that of the start. -/
theorem restartRegs_savedRegs (st : Stepping) (f : StringFault) (c : Word) (r : StringRegs) :
    restartRegs st f (savedRegs st f c r) = if cxFromStart st f then { r with cx := c } else r := by
  unfold restartRegs savedRegs
  split <;> simp

/-- The first reference of a list that stops an iteration: its place, itself and why. -/
theorem refAddrs_cons_error {n k : Nat} {s : State} {r : StringRef} {rs : List StringRef} {st : Stop}
    (h : segAccess r.seg r.off.toNat n r.kind false s = .error st) : refAddrs n s k (r :: rs) = .error (k, r, st) := by
  simp [refAddrs, h]

/-- A reference that is made leaves the rest to those after it. -/
theorem refAddrs_cons_ok {n k : Nat} {s : State} {r : StringRef} {rs : List StringRef} {a : Addr}
    (h : segAccess r.seg r.off.toNat n r.kind false s = .ok a) :
    refAddrs n s k (r :: rs) = (refAddrs n s (k + 1) rs).map fun as => a :: as := by
  simp [refAddrs, h]

/-- At a valid cache an iteration that is stopped reaches the handler with SI, DI and CX to be corrected. -/
theorem stringStopRegs_of_valid {i : StringInstr} {k : Nat} {r : StringRef} {s : State}
    (h : (s.regs.cache r.seg).valid = true) : stringStopRegs i k r s =
      withSavedRegs i (i.fault false k (limitViolated r.seg r.off.toNat i.size s) s) s := by
  simp [stringStopRegs, h]

/-- At an invalid cache it reaches the handler as not attempted. -/
theorem stringStopRegs_of_invalid {i : StringInstr} {k : Nat} {r : StringRef} {s : State}
    (h : (s.regs.cache r.seg).valid = false) : stringStopRegs i k r s = s := by
  simp [stringStopRegs, h]

/-- An iteration that is stopped changes SI, DI and CX at most. -/
theorem stringStopRegs_cases (i : StringInstr) (k : Nat) (r : StringRef) (s : State) :
    ∃ si di cx, stringStopRegs i k r s = { s with regs := { s.regs with si := si, di := di, cx := cx } } := by
  unfold stringStopRegs
  split
  · exact ⟨_, _, _, rfl⟩
  · exact ⟨s.regs.si, s.regs.di, s.regs.cx, rfl⟩

/-- The references of an iteration, where the port is not in the way. -/
theorem stringOp_eq_stringRefs {i : StringInstr} {complete : State → State} {s : State}
    (hp : i.usesPort = false ∨ (ioplDenied s = some false ∧ reservedPort i.port = false)) :
    stringOp i complete s = stringRefs i complete s := by
  unfold stringOp
  rcases hp with hp | ⟨hp, hr⟩ <;> rw [hp]
  · simp
  · simp [StringInstr.portReserved, hr]

/-- An iteration that neither the IOPL rule nor its port stops is what a reference that fails makes of it. -/
theorem stringOp_of_ref_error {i : StringInstr} {complete : State → State} {s : State} {k : Nat} {r : StringRef} {st : Stop}
    (hp : i.usesPort = false ∨ (ioplDenied s = some false ∧ reservedPort i.port = false))
    (h : refAddrs i.size s 0 (i.refs s.regs) = .error (k, r, st)) : stringOp i complete s = stringStop i k r st s := by
  rw [stringOp_eq_stringRefs hp]
  simp [stringRefs, h]

/-- An iteration whose references are all made has their effect on memory and ends. -/
theorem stringOp_of_refs_ok {i : StringInstr} {complete : State → State} {s : State} {as : List Addr}
    (hp : i.usesPort = false ∨ (ioplDenied s = some false ∧ reservedPort i.port = false))
    (h : refAddrs i.size s 0 (i.refs s.regs) = .ok as) :
    stringOp i complete s = .next (stringEnd i (complete (i.effect as s))) := by
  have ho : i.portReserved .outs = false := by
    rcases hp with hp | ⟨_, hr⟩
    · cases ho : i.op <;> simp_all [StringInstr.usesPort, StringInstr.portReserved]
    · simp [StringInstr.portReserved, hr]
  rw [stringOp_eq_stringRefs hp]
  simp [stringRefs, h, ho]

end Sys2Proof.Machine
end

