-- ==== Sys2Proof/Laws/Memory.lean ====
section
/-! SUPPORT. Memory: a read after a write, and the canonical form that every write keeps. -/

namespace Sys2Proof.Machine

/-- The canonical form from a bound is the one from any smaller bound. -/
theorem wfFrom_mono {m : Memory} {lo lo' : Nat} (h : m.wfFrom lo = true) (hl : lo' ≤ lo) : m.wfFrom lo' = true := by
  cases m with
  | nil => rfl
  | cons p m =>
    simp only [Memory.wfFrom, Bool.and_eq_true, decide_eq_true_eq] at h ⊢
    exact ⟨⟨⟨by omega, h.1.1.2⟩, h.1.2⟩, h.2⟩

/-- Below the lowest entry every address is unlisted. -/
theorem read_below {m : Memory} {lo a : Nat} (h : m.wfFrom lo = true) (ha : a < lo) : m.read a = Memory.unlisted := by
  induction m generalizing lo with
  | nil => rfl
  | cons p m ih =>
    simp only [Memory.wfFrom, Bool.and_eq_true, decide_eq_true_eq] at h
    have hne : ¬ p.1 = a := by omega
    simp only [Memory.read, hne, if_false]
    exact ih h.2 (by omega)

/-- A read after a write, from any bound below the address. -/
theorem read_writeFrom {m : Memory} {lo : Nat} (h : m.wfFrom lo = true) (a : Nat) (b : Byte) (c : Nat) :
    (m.write a b).read c = if c = a then b else m.read c := by
  induction m generalizing lo with
  | nil =>
    by_cases hb : b = Memory.unlisted <;> by_cases hc : c = a <;> simp [Memory.write, Memory.read, hb, hc]
    intro h; exact absurd h.symm hc
  | cons p m ih =>
    obtain ⟨x, y⟩ := p
    simp only [Memory.wfFrom, Bool.and_eq_true, decide_eq_true_eq] at h
    have hbelow : ∀ d, d ≤ x → Memory.read m d = Memory.unlisted := fun d hd => read_below h.2 (by omega)
    simp only [Memory.write]
    split
    · next hax =>
      by_cases hc : c = a
      · subst hc
        have hxc : ¬ x = c := by omega
        by_cases hb : b = Memory.unlisted <;> simp [Memory.read, hb, hxc, hbelow c (by omega)]
      · have hac : ¬ a = c := fun e => hc e.symm
        by_cases hb : b = Memory.unlisted <;> simp [Memory.read, hb, hc, hac]
    · split
      · next hax hax' =>
        subst hax'
        by_cases hc : c = a
        · subst hc
          by_cases hb : b = Memory.unlisted <;> simp [Memory.read, hb, hbelow c (by omega)]
        · have hac : ¬ a = c := fun e => hc e.symm
          by_cases hb : b = Memory.unlisted <;> simp [Memory.read, hb, hc, hac]
      · next hax hax' =>
        by_cases hxc : x = c
        · subst hxc
          simp [Memory.read, show ¬ x = a from fun e => hax' e.symm]
        · simp only [Memory.read, hxc, if_false]
          exact ih h.2

/-- A write keeps the canonical form from any bound not above the address. -/
theorem wfFrom_write {m : Memory} {lo : Nat} (h : m.wfFrom lo = true) {a : Nat} (hlo : lo ≤ a) (ha : a < 2 ^ 24)
    (b : Byte) : (m.write a b).wfFrom lo = true := by
  induction m generalizing lo with
  | nil =>
    by_cases hb : b = Memory.unlisted
    · simp [Memory.write, hb, Memory.wfFrom]
    · simpa [Memory.write, hb, Memory.wfFrom] using ⟨hlo, ha⟩
  | cons p m ih =>
    obtain ⟨x, y⟩ := p
    have hm := h
    simp only [Memory.wfFrom, Bool.and_eq_true, decide_eq_true_eq] at h
    simp only [Memory.write]
    split
    · next hax =>
      by_cases hb : b = Memory.unlisted
      · simpa only [hb, if_true] using hm
      · simp only [hb, if_false, Memory.wfFrom, Bool.and_eq_true, decide_eq_true_eq]
        refine ⟨⟨⟨hlo, ha⟩, by simpa using hb⟩, ⟨⟨by omega, h.1.1.2⟩, h.1.2⟩, h.2⟩
    · split
      · next hax hax' =>
        by_cases hb : b = Memory.unlisted
        · simp only [hb, if_true]; exact wfFrom_mono h.2 (by omega)
        · simp only [hb, if_false, Memory.wfFrom, Bool.and_eq_true, decide_eq_true_eq]
          subst hax'
          exact ⟨⟨⟨hlo, ha⟩, by simpa using hb⟩, h.2⟩
      · next hax hax' =>
        simp only [Memory.wfFrom, Bool.and_eq_true, decide_eq_true_eq]
        exact ⟨⟨⟨h.1.1.1, h.1.1.2⟩, h.1.2⟩, ih h.2 (by omega)⟩

/-! ### Bytes and words by address -/

/-- A byte read after a byte write. -/
theorem byte_setByte {m : Memory} (h : m.wf = true) (a c : Addr) (v : Byte) :
    (m.setByte a v).byte c = if c = a then v else m.byte c := by
  simp only [Memory.byte, Memory.setByte, read_writeFrom h]
  by_cases hc : c = a
  · simp [hc]
  · simp [hc, show ¬ c.toNat = a.toNat from fun e => hc (BitVec.eq_of_toNat_eq e)]

/-- A byte write keeps the canonical form. -/
theorem wf_setByte {m : Memory} (h : m.wf = true) (a : Addr) (v : Byte) : (m.setByte a v).wf = true :=
  wfFrom_write h (Nat.zero_le _) a.isLt v

/-- A word write keeps the canonical form. -/
theorem wf_setWord {m : Memory} (h : m.wf = true) (a : Addr) (v : Word) : (m.setWord a v).wf = true :=
  wf_setByte (wf_setByte h a _) (a + 1) _

/-- A list of byte writes keeps the canonical form. -/
theorem wf_setBytes {m : Memory} (h : m.wf = true) (ws : List (Addr × Byte)) : (m.setBytes ws).wf = true := by
  induction ws generalizing m with
  | nil => exact h
  | cons w ws ih => exact ih (wf_setByte h w.1 w.2)

/-- Placing code keeps the canonical form. -/
theorem wf_placeBytes {m : Memory} (h : m.wf = true) (a : Addr) (bs : List Byte) : (placeBytes m a bs).wf = true := by
  induction bs generalizing m a with
  | nil => exact h
  | cons b bs ih => exact ih (wf_setByte h a b) (a + 1)

/-- Memory right after reset has the canonical form. -/
theorem wf_reset_mem : State.reset.mem.wf = true := rfl

end Sys2Proof.Machine
end

