-- ==== Sys2Proof/Laws/PerInstr.lean ====
section
/-! SUPPORT. Statements about every instruction, one lemma per constructor. -/

namespace Sys2Proof.Laws

/-- An encoding has the table's length, and its first byte calls for a second one exactly where it has two
(30_encoding.md R80, R92). -/
def EncodingShape.Statement (i : Instr) : Prop :=
  (encode i).length = i.length ∧ ((encode i).head?.map needsSecondByte = some (decide (i.length = 2)))

theorem EncodingShape.loadall : EncodingShape.Statement .loadall := ⟨rfl, rfl⟩
theorem EncodingShape.op0F04 : EncodingShape.Statement .op0F04 := ⟨rfl, rfl⟩
theorem EncodingShape.alias82 (m : BitVec 2) (x r : BitVec 3) : EncodingShape.Statement (.alias82 m x r) := ⟨rfl, rfl⟩
theorem EncodingShape.grp80 (m : BitVec 2) (x r : BitVec 3) : EncodingShape.Statement (.grp80 m x r) := ⟨rfl, rfl⟩
theorem EncodingShape.shiftD0Reg6 (m : BitVec 2) (r : BitVec 3) : EncodingShape.Statement (.shiftD0Reg6 m r) := ⟨rfl, rfl⟩
theorem EncodingShape.shiftD1Reg6 (m : BitVec 2) (r : BitVec 3) : EncodingShape.Statement (.shiftD1Reg6 m r) := ⟨rfl, rfl⟩
theorem EncodingShape.opD6 : EncodingShape.Statement .opD6 := ⟨rfl, rfl⟩
theorem EncodingShape.pfxF1 : EncodingShape.Statement .pfxF1 := ⟨rfl, rfl⟩
theorem EncodingShape.testF6Reg1 (m : BitVec 2) (r : BitVec 3) : EncodingShape.Statement (.testF6Reg1 m r) := ⟨rfl, rfl⟩
theorem EncodingShape.testF7Reg1 (m : BitVec 2) (r : BitVec 3) : EncodingShape.Statement (.testF7Reg1 m r) := ⟨rfl, rfl⟩
theorem EncodingShape.testF6Reg0 (m : BitVec 2) (r : BitVec 3) : EncodingShape.Statement (.testF6Reg0 m r) := ⟨rfl, rfl⟩
theorem EncodingShape.testF7Reg0 (m : BitVec 2) (r : BitVec 3) : EncodingShape.Statement (.testF7Reg0 m r) := ⟨rfl, rfl⟩

end Sys2Proof.Laws
end

