-- ==== Sys2Proof/Tests/Slice0.lean ====
section
/-! SUPPORT. Tests: expected results come from the encodings and vectors of spec/, never from the model. -/

namespace Sys2Proof.Tests

open Sys2Proof.Machine

/-! ### Helpers -/

/-- A machine with every parameter set, on a later stepping. -/
def testParams : Params where
  stepping := .later
  areaWaitStates := 1
  physWrap := none
  resetState := Regs.reset
  powerUp := { cs := Config.resetCs, csBase := Config.resetCsBase, ip := Config.resetIp }
  maxInsnLen := 10
  prefetchDepth := 6
  shiftReg6Alias := none
  op0F04ErrorCode := 0
  realModeIdtrUsed := false

/-- A cache. -/
def cacheOf (base : Addr) (access : Byte) (limit : Word) : Cache := { base := base, access := access, limit := limit }

/-- The start states of 95_test_vectors.md P1 and P2: real mode, CS:IP = 0000H:0500H. -/
def realRegs : Regs := { Regs.reset with cs := 0, ip := 0x0500, csCache := cacheOf 0 0x9B 0xFFFF }

/-- The start state of P3: protected mode, CPL 0. -/
def protRegs : Regs := { realRegs with msw := 1, ssCache := cacheOf 0 0x93 0xFFFF }

/-- The registers at the end of V2: CPL 3, IOPL 0. -/
def userRegs : Regs :=
  { realRegs with
    msw := 1, cs := 0x3000, ip := 0x0100, csCache := cacheOf 0x230000 0xFB 0xFFFF
    ssCache := cacheOf 0x220000 0xF3 0xFFFF, dsCache := cacheOf 0x210000 0xF3 0x7FFF }

/-- A state with these registers. -/
def stateOf (r : Regs) : State := { State.reset with regs := r, params := testParams }

/-- The state with bytes at CS:IP and an image in the LOADALL area. -/
def load (code image : List Byte) (s : State) : State :=
  let t := placeCode code s
  { t with mem := placeBytes t.mem 0x000800 image }

/-- The area of 95_test_vectors.md V1. -/
def imageV1 : List Byte :=
  [0x00, 0x00, 0x00, 0x00, 0x00, 0x00, 0x00, 0x00, 0x00, 0x00, 0x00, 0x00, 0x00, 0x00, 0x00, 0x00,
   0x00, 0x00, 0x00, 0x00, 0x00, 0x00, 0x00, 0x00, 0x02, 0x00, 0x00, 0x01, 0x00, 0x00, 0x00, 0x10] ++
  [0x00, 0x20, 0x00, 0x30, 0xFF, 0xFF, 0x11, 0x11, 0x22, 0x22, 0x33, 0x33, 0xFE, 0xFF, 0x44, 0x44,
   0x55, 0x55, 0x66, 0x66, 0x77, 0x77, 0x00, 0x00, 0x10, 0x93, 0xFF, 0xFF, 0x00, 0x00, 0x03, 0x9B] ++
  [0xFF, 0xFF, 0x00, 0x00, 0x02, 0x93, 0xFF, 0xFF, 0x00, 0x00, 0x01, 0x93, 0xFF, 0xFF, 0x00, 0x00,
   0x00, 0x00, 0x00, 0x00, 0x00, 0x00, 0x00, 0x00, 0x00, 0x00, 0x00, 0x00, 0x00, 0x00, 0xFF, 0x03] ++
  [0x00, 0x00, 0x00, 0x00, 0x00, 0x00]

/-- The area of V1 with one byte changed. -/
def imageV1With (k : Nat) (b : Byte) : List Byte := imageV1.set k b

/-- The next state of an outcome. -/
def nextOf : Outcome → Option State
  | .next s => some s
  | .fault _ => none
  | .refused _ => none

/-- The refusal of an outcome. -/
def refusalOf : Outcome → Option Refusal
  | .next _ => none
  | .fault _ => none
  | .refused r => some r

/-- Whether an outcome is a next state of which `p` holds. -/
def isNext (o : Outcome) (p : State → Bool) : Bool := (nextOf o).any p

theorem exists_of_isNext {o : Outcome} {p : State → Bool} (h : isNext o p = true) : ∃ t, o = .next t ∧ p t = true := by
  cases o with
  | next t => exact ⟨t, rfl, h⟩
  | fault f => cases h
  | refused r => cases h

/-- V1's program in real mode. -/
def realV1 : State := load [0x0F, 0x05] imageV1 (stateOf realRegs)
/-- LOADALL at CPL 0 in protected mode, the area of V1 with this byte at 806H. -/
def protV1 (b : Byte) : State := load [0x0F, 0x05] (imageV1With 0x06 b) (stateOf protRegs)
/-- LOADALL at CPL 3 (V3). -/
def userV3 : State := load [0x0F, 0x05] imageV1 (stateOf userRegs)
/-- V1's program on an A1 part with these wait states, the area of V1 with this byte at 804H. -/
def earlyV1 (waits : Nat) (b : Byte) : State :=
  load [0x0F, 0x05] (imageV1With 0x04 b)
    { stateOf realRegs with params := { testParams with stepping := .a1, areaWaitStates := waits } }
/-- A state with CS and SS caches of these DPLs, in protected mode. -/
def atDpls (c k : Level) : State :=
  stateOf { protRegs with
    csCache := cacheOf 0 (1#1 ++ c ++ 0b11011#5) 0xFFFF, ssCache := cacheOf 0 (1#1 ++ k ++ 0b10011#5) 0xFFFF }
/-- A state with one segment cache replaced. -/
def withCache (x : SegReg) (c : Cache) : State := stateOf (protRegs.setSeg x 0x1234 c)
/-- The inputs of a state. -/
def withInput (i : Input) (s : State) : State := { s with inputs := [i] }

/-! ### Decoding: words written out from the spec's encodings (30_encoding.md R81 to R86) -/

theorem test_decode_loadall : decode [0b00001111, 0b00000101] = .instr .loadall 2 := by decide
theorem test_decode_op0F04 : decode [0b00001111, 0b00000100] = .instr .op0F04 2 := by decide
theorem test_decode_alias82 : decode [0b10000010, 0b11000001] = .instr (.alias82 3 0 1) 2 := by decide
theorem test_decode_grp80 : decode [0b10000000, 0b01101010] = .instr (.grp80 1 5 2) 2 := by decide
theorem test_decode_shiftD0 : decode [0b11010000, 0b11110000] = .instr (.shiftD0Reg6 3 0) 2 := by decide
theorem test_decode_shiftD1 : decode [0b11010001, 0b00110101] = .instr (.shiftD1Reg6 0 5) 2 := by decide
theorem test_decode_opD6 : decode [0b11010110] = .instr .opD6 1 := by decide
theorem test_decode_pfxF1 : decode [0b11110001] = .instr .pfxF1 1 := by decide
theorem test_decode_testF6Reg1 : decode [0b11110110, 0b11001000] = .instr (.testF6Reg1 3 0) 2 := by decide
theorem test_decode_testF7Reg1 : decode [0b11110111, 0b10001011] = .instr (.testF7Reg1 2 3) 2 := by decide
theorem test_decode_testF6Reg0 : decode [0b11110110, 0b01000110] = .instr (.testF6Reg0 1 6) 2 := by decide
theorem test_decode_testF7Reg0 : decode [0b11110111, 0b11000111] = .instr (.testF7Reg0 3 7) 2 := by decide
theorem test_decode_0F06 : decode [0x0F, 0x06] = .refuse (.secondByteNotInSource 0x06) := by decide
theorem test_decode_override : decode [0x26] = .refuse (.opcodeNotInSource 0x26) := by decide
theorem test_decode_shift_reg4 : decode [0xD0, 0b11100000] = .refuse (.regNotInSource 0xD0 4) := by decide

/-- The rows' words as the table numbers them (log 35). -/
theorem test_table_words :
    [decodeTableWord 16 3845, decodeTableWord 16 3844, decodeTableWord 8 0xD6, decodeTableWord 8 0xF1,
      decodeTableWord 16 0x8200, decodeTableWord 16 0x8000, decodeTableWord 16 0xD030, decodeTableWord 16 0xD130,
      decodeTableWord 16 0xF608, decodeTableWord 16 0xF708, decodeTableWord 16 0xF600, decodeTableWord 16 0xF700]
    = [some .loadall, some .op0F04, some .opD6, some .pfxF1, some (.alias82 0 0 0), some (.grp80 0 0 0),
      some (.shiftD0Reg6 0 0), some (.shiftD1Reg6 0 0), some (.testF6Reg1 0 0), some (.testF7Reg1 0 0),
      some (.testF6Reg0 0 0), some (.testF7Reg0 0 0)] := by decide

/-! ### Well-formedness: one ill-formed term for each check -/

theorem test_wf_refuses_bare_prefix : PrefixedInstr.wellFormed 10 { f1s := 1, instr := .pfxF1 } = false := by decide
theorem test_wf_refuses_too_long : PrefixedInstr.wellFormed 10 { f1s := 9, instr := .loadall } = false := by decide
theorem test_wf_accepts_longest : PrefixedInstr.wellFormed 10 { f1s := 8, instr := .loadall } = true := by decide

/-! ### The first instruction after RESET (log 36) -/

theorem test_reset_runs_loadall :
    (nextOf (step (State.reset.withFetchWord 16 3845))).map (fun t => (t.regs.ip, t.event, t.regs.ax))
      = some (0, none, 0) := by decide +kernel
theorem test_reset_runs_op0F04 :
    (nextOf (step (State.reset.withFetchWord 16 3844))).map (·.stopped) = some true := by decide +kernel
theorem test_reset_runs_pfxF1 :
    (nextOf (step (State.reset.withFetchWord 8 0xF1))).map (·.prefixes) = some 1 := by decide +kernel
theorem test_reset_refuses_opD6 :
    refusalOf (step (State.reset.withFetchWord 8 0xD6)) = some .proprietaryOpcode := by decide +kernel

/-! ### Vectors of 95_test_vectors.md -/

/-- V1: registers, GDTR and IDTR; mode real. -/
theorem test_V1_registers :
    isNext (step realV1) (fun t => (t.regs.msw, t.regs.cs, t.regs.ip, t.regs.es, t.regs.sp, t.regs.ax) =
      (0x0000, 0x3000, 0x0100, 0xFFFF, 0xFFFE, 0x7777) ∧ t.regs.idtr = { base := 0, limit := 0x03FF } ∧
      t.isProtected = false) = true := by decide +kernel

/-- V1: the caches. -/
theorem test_V1_caches :
    isNext (step realV1) (fun t => t.regs.esCache = cacheOf 0x100000 0x93 0xFFFF ∧
      t.regs.csCache = cacheOf 0x030000 0x9B 0xFFFF ∧ t.regs.ssCache = cacheOf 0x020000 0x93 0xFFFF ∧
      t.regs.dsCache = cacheOf 0x010000 0x93 0xFFFF) = true := by decide +kernel

/-- 2.5: 0F04H at CPL 3: exception 13 with the parameter's error code. -/
theorem test_op0F04_user :
    isNext (step (load [0x0F, 0x04] [] (stateOf userRegs))) (fun t => t.stopped = false ∧ t.regs = userRegs ∧
      t.event = some (.exception 13 (some 0) 0x3000 0x0100)) = true := by decide +kernel

/-- V9, last step: two F1H bytes consumed, LOADALL at CPL 3 saves the IP of the first. -/
theorem test_V9_saved_ip :
    isNext (step { load [0xF1, 0xF1, 0x0F, 0x05] imageV1 (stateOf userRegs) with prefixes := 2 }) (fun t =>
      t.event = some (.exception 13 (some 0) 0x3000 0x0100)) = true := by decide +kernel

/-- 2.2: DS cache (210000H, F3H, 7FFFH). -/
theorem test_references :
    segAccess .ds 0x7FFF 1 .read false (stateOf userRegs) = .ok 0x217FFF ∧
    segAccess .ds 0x7FFE 2 .read false (stateOf userRegs) = .ok 0x217FFE ∧
    segAccess .ds 0x7FFF 2 .read false (stateOf userRegs) = .error (.exception 13 (some 0)) ∧
    segAccess .ds 0x8000 1 .read false (stateOf userRegs) = .error (.exception 13 (some 0)) := by decide

/-- 2.2: an expand-down cache (300000H, F7H, 0FFFH). -/
theorem test_expand_down :
    segAccess .ds 0x0FFF 1 .read false (withCache .ds (cacheOf 0x300000 0xF7 0x0FFF)) = .error (.exception 13 (some 0)) ∧
    segAccess .ds 0x1000 1 .read false (withCache .ds (cacheOf 0x300000 0xF7 0x0FFF)) = .ok 0x301000 ∧
    segAccess .ds 0xFFFF 1 .read false (withCache .ds (cacheOf 0x300000 0xF7 0x0FFF)) = .ok 0x30FFFF ∧
    segAccess .ds 0xFFFF 2 .read false (withCache .ds (cacheOf 0x300000 0xF7 0x0FFF)) =
      .error (.exception 13 (some 0)) := by decide

/-- 2.3: a real mode load of ES with 2000H after V1. -/
theorem test_real_load :
    isNext (loadSegReg .es 0x2000 none 2 realV1) (fun t => t.regs.es = 0x2000 ∧ t.regs.esCache.base = 0x020000 ∧
      t.regs.esCache.limit = 0xFFFF) = true := by decide

/-- 2.3, 2.8: faulting loads of 1234H and 1237H at CPL 3. -/
theorem test_faulting_load :
    isNext (loadSegReg .es 0x1237 (some (cacheOf 0 0xD3 0)) 2 (stateOf userRegs)) (fun t =>
      t.event = some (.exception 13 (some 0x1234) 0x3000 0x0100) ∧ t.regs = userRegs) = true ∧
    isNext (loadSegReg .es 0x1234 none 2 (stateOf userRegs)) (fun t =>
      t.event = some (.exception 13 (some 0x1234) 0x3000 0x0100)) = true := by decide

/-- 2.6: POPF of 7200H at CPL 3, IOPL 0. -/
theorem test_popf :
    let s := stateOf { userRegs with flags := 0, sp := 0x0100 }
    isNext (popfOp 1 { s with mem := s.mem.setWord 0x220100 0x7200 }) (fun t => t.regs.flags = 0x4000 ∧ t.regs.sp = 0x0102 ∧
      t.regs.ip = 0x0101 ∧ t.event = none) = true := by decide

/-- 2.7: PUSH SP with SP = 0100H. -/
theorem test_push_sp :
    isNext (pushSp 1 (stateOf { realRegs with sp := 0x0100 })) (fun t => t.regs.sp = 0x00FE ∧ t.mem.word 0x0000FE = 0x0100)
      = true := by decide

/-- 2.7: shift counts 21H and 20H; IDIV with the quotient 8000H. -/
theorem test_shift_idiv :
    shiftCount 0x21 = 1 ∧ shiftCount 0x20 = 0 ∧ idivQuotient 16 (-32768) = some 0x8000 := by decide

/-- 2.7, 2.8: INT 21H at CPL 3 through a gate of DPL 2. -/
theorem test_int :
    isNext (intOp 0x21 2 2 (stateOf userRegs)) (fun t =>
      t.event = some (.exception 13 (some 0x010A) 0x3000 0x0100)) = true := by decide

/-- 60_exceptions.md R230: DIV with a quotient of 256 in a byte. -/
theorem test_div : isNext (divOp 8 256 2 (fun _ s => s) (stateOf realRegs)) (fun t =>
    t.event = some (.exception 0 none 0 0x0500) ∧ t.regs = realRegs) = true := by decide

/-- 42_other_instructions.md R168, R171; U25: WAIT and FSETPM run before the FNINIT that exception 9 calls for. -/
theorem test_before_fninit :
    let s := { stateOf realRegs with px := { Px.reset with needsInit := true } }
    isNext (waitOp 1 s) (fun t => t.regs.ip = 0x0501 ∧ t.px.needsInit = true ∧ t.event = none) = true ∧
      isNext (fsetpmOp 2 s) (fun t => t.regs.ip = 0x0502 ∧ t.px.needsInit = true ∧ t.event = none) = true := by decide

/-- 20_memory.md R66; 42_other_instructions.md R172: WAIT waits for the 80287, and meets ERROR. -/
theorem test_wait :
    isNext (waitOp 1 { stateOf realRegs with px := { Px.reset with busy := true } }) (fun t => t.regs.ip = 0x0500) = true ∧
      isNext (waitOp 1 { stateOf realRegs with now := { Input.quiet with error := true } })
        (fun t => t.event = some (.interrupt 16 0 0x0500)) = true := by decide

/-- 20_memory.md R50: a later word of an operand at 10000H, the first at FFFEH. -/
theorem test_transfer_past_end :
    isNext (transferOp { seg := .ds, off := 0x10000, write := none } (stateOf realRegs))
      (fun t => t.event = some (.exception 9 none 0 0x0500)) = true := by decide

/-- 60_exceptions.md R239, U21: of a word written at the limit, its byte within it may have been written. -/
theorem test_overrun_byte :
    isNext (transferOp { seg := .ds, off := 0x7FFF, write := some 0x9899 } (withCache .ds (cacheOf 0x210000 0x93 0x7FFF)))
      (fun t => t.now.writes.map (·.1) = [0x217FFF] ∧ t.px.needsInit = true) = true := by decide

/-- 70_reset_and_hazards.md R273: FSETPM after the 80287's RESET pin. -/
theorem test_fsetpm_after_reset :
    isNext (fsetpmOp 2 (sampleInput (withInput { Input.quiet with pxReset := true } (stateOf realRegs))))
      (fun t => t.px.protectedMode = true ∧ t.px.needsInit = false) = true := by decide

/-- The state of an 80287 at work whose transfer writes AX's word of the area while LOADALL runs. -/
def transferV1 : State :=
  withInput { Input.quiet with transfer := some { seg := .ds, off := 0x0834, write := some 0x9899 } }
    { realV1 with px := { Px.reset with busy := true } }

/-- 20_memory.md R62: a transfer's word is in memory after the step. -/
theorem test_transfer_lands : isNext (transferPhase (sampleInput transferV1)) (fun u =>
    u.mem.word 0x834 = 0x7777 ∧ (finishStep u).mem.word 0x834 = 0x9899) = true := by decide +kernel

/-- A string instruction of words on DS:SI and ES:DI. -/
def testString (o : StringOp) (rep : Bool) : StringInstr :=
  { op := o, wide := true, repeated := rep, src := .ds, len := 1, startCx := 9, data := 0, port := 0x60, more := false }

/-- The same state on an A1 part. -/
def onA1 (s : State) : State := { s with params := { s.params with stepping := .a1 } }

/-- 42_other_instructions.md R180; 60_exceptions.md R244: MOVS with both operands beyond their limits stops at its source. -/
theorem test_movs_source_first :
    isNext (stringOp { testString .movs true with wide := false, src := .ss, len := 2 } id
      (stateOf { realRegs with
        cx := 5, si := 0x200, di := 0x200, ssCache := cacheOf 0 0x93 0x1FF, esCache := cacheOf 0 0x93 0x1FF }))
      (fun t => t.event = some (.exception 12 (some 0) 0 0x0500) ∧ t.regs.cx = 4 ∧ t.regs.di = 0x200) = true := by decide

/-- 10_state.md R12: a MOVS that is not repeated copies, and IP advances by its length. -/
theorem test_movs_completes :
    isNext (stringOp { testString .movs false with len := 3 } id
      (stateOf { realRegs with si := 0x500, di := 0x700, dsCache := cacheOf 0 0x93 0xFFFF, esCache := cacheOf 0 0x93 0xFFFF }))
      (fun t => t.regs.ip = 0x0503 ∧ t.event = none) = true := by decide +kernel

/-- 20_memory.md R42; 70_reset_and_hazards.md R283: INS and OUTS at the ends of the reserved ports, and beside them. -/
theorem test_reserved_ports :
    stringOp { testString .ins false with port := 0x00F8 } id (stateOf realRegs) = .refused .reservedPort ∧
      stringOp { testString .outs false with port := 0x00FF } id (stateOf realRegs) = .refused .reservedPort ∧
      isNext (stringOp { testString .ins false with port := 0x0100 } id (stateOf realRegs)) (fun t => t.event = none) = true :=
  ⟨rfl, rfl, by decide +kernel⟩

/-- 70_reset_and_hazards.md R291: on A1, MOVS with an ES override and ES null saves the CS:IP after it. -/
theorem test_movs_null_source :
    isNext (stringOp { testString .movs false with src := .es }  id
      (onA1 (stateOf { protRegs with es := 3, esCache := cacheOf 0 0x13 0xFFFF, ip := 0x0100 })))
      (fun t => t.event = some (.exception 13 (some 0) protRegs.cs 0x0101)) = true := by decide

/-- 10_state.md R19: a repeated STOS at an invalid ES appears as not attempted. -/
theorem test_stos_invalid :
    isNext (stringOp (testString .stos true) id (withCache .es (cacheOf 0 0x13 0xFFFF))) (fun t =>
      t.event = some (.exception 13 (some 0) protRegs.cs protRegs.ip) ∧ t.regs.di = protRegs.di ∧ t.regs.cx = protRegs.cx)
      = true := by decide

/-- 42_other_instructions.md R164: a return whose CS and SS have different RPL fields. -/
theorem test_return_rpl :
    isNext (trapReturn { ip := 0, cs := 0x3000, flags := 0, ss := 0x2001, csDesc := none, ssDesc := none } 0
      (stateOf userRegs)) (fun t => t.event = some (.exception 13 (some 0x3000) 0x3000 0x0100)) = true := by decide

/-- 60_exceptions.md R232: a null CS on a return raises no load fault, though its RPL differs from that of SS. -/
theorem test_return_null :
    refusalOf (farReturn { ip := 0, cs := 0x0000, flags := 0, ss := 0x2003, csDesc := none, ssDesc := none }
      (stateOf userRegs)) = some .nullSelectorNotForCsSs := by decide

/-! ### For each obligation with hypotheses: concrete states and operands that meet them, clause by clause -/

theorem witness_OtherSecondBytesRefused : (0x03 : Byte) ≠ 0x04 ∧ (0x03 : Byte) ≠ 0x05 ∧ (0x06 : Byte) ≠ 0x05 := by decide

theorem witness_DecodedBytesAreTheEncoding : decode [0x0F, 0x05, 0x00] = .instr .loadall 2 := by decide

/-- Real mode, and protected mode at CPL 0. -/
theorem witness_LoadallLoadsTheArea :
    (realV1.now.writes = [] ∧ mayExecuteLoadall realV1 = true ∧ ImageOk realV1 ∧ NoErratum realV1) ∧
    ((protV1 1).now.writes = [] ∧ mayExecuteLoadall (protV1 1) = true ∧ ImageOk (protV1 1) ∧ NoErratum (protV1 1)) := by
  unfold ImageOk NoErratum
  decide +kernel

/-- Another bus master writes the word of AX while LOADALL runs. -/
def busV1 : State := { realV1 with now := { Input.quiet with hold := true, writes := [(0x834, 0x99), (0x835, 0x98)] } }

theorem witness_LoadallWordsOldOrNew : mayExecuteLoadall busV1 = true ∧ areaOk busV1 = true := by
  refine ⟨by decide +kernel, ?_⟩
  have h1 : areaByte 0x51 busV1 = 0 := by
    show (areaWord 0x50 busV1).extractLsb' 8 8 = 0
    rcases areaWord_cases busV1 0x50 with h | h <;> rw [h] <;> decide +kernel
  have h2 : areaByte 0x5D busV1 = 0 := by
    show (areaWord 0x5C busV1).extractLsb' 8 8 = 0
    rcases areaWord_cases busV1 0x5C with h | h <;> rw [h] <;> decide +kernel
  have h3 : busV1.isProtected = false := by decide +kernel
  simp [areaOk, h1, h2, h3]

/-- CPL 3; two different fields, neither 0; exactly one 0, either way; real mode; CPL 0. -/
theorem witness_LoadallPrivilege :
    (userV3.isProtected = true ∧ userV3.csDpl ≠ 0 ∧ userV3.ssDpl ≠ 0) ∧
    ((atDpls 1 2).isProtected = true ∧ (atDpls 1 2).csDpl ≠ 0 ∧ (atDpls 1 2).ssDpl ≠ 0) ∧
    ((atDpls 0 3).isProtected = true ∧ ((atDpls 0 3).csDpl = 0 ↔ (atDpls 0 3).ssDpl ≠ 0)) ∧
    ((atDpls 3 0).isProtected = true ∧ ((atDpls 3 0).csDpl = 0 ↔ (atDpls 3 0).ssDpl ≠ 0)) ∧
    realV1.isProtected = false ∧ ((protV1 1).csDpl = 0 ∧ (protV1 1).ssDpl = 0) := by decide +kernel

theorem witness_LoadallAreaRequirements :
    ((protV1 0xFE).now.writes = [] ∧ mayExecuteLoadall (protV1 0xFE) = true ∧ (protV1 0xFE).isProtected = true ∧
      ((protV1 0xFE).mem.word 0x806).getLsbD 0 = false) ∧
    (let s := load [] (imageV1With 0x51 0x01) (stateOf realRegs);
      s.now.writes = [] ∧ mayExecuteLoadall s = true ∧ s.isProtected = false ∧ s.mem.byte 0x851 ≠ 0) ∧
    (let s := load [] (imageV1With 0x5D 0x80) (stateOf realRegs);
      s.now.writes = [] ∧ mayExecuteLoadall s = true ∧ s.isProtected = false ∧ s.mem.byte 0x85D ≠ 0) := by decide +kernel

/-- From real mode, and in protected mode with bit 0 set and (third clause) a next state. -/
theorem witness_LoadallMode :
    (realV1.now.writes = [] ∧ mayExecuteLoadall realV1 = true ∧ realV1.mem.byte 0x851 = 0 ∧ realV1.mem.byte 0x85D = 0 ∧
      NoErratum realV1 ∧ realV1.isProtected = false) ∧
    ((protV1 1).now.writes = [] ∧ mayExecuteLoadall (protV1 1) = true ∧ (protV1 1).mem.byte 0x851 = 0 ∧
      (protV1 1).mem.byte 0x85D = 0 ∧ NoErratum (protV1 1) ∧ (protV1 1).isProtected = true ∧
      ((protV1 1).mem.word 0x806).getLsbD 0 = true ∧ isNext (exec .loadall (protV1 1)) (fun _ => true) = true) := by
  unfold NoErratum
  decide +kernel

theorem witness_LoadallSetsLevel :
    realV1.now.writes = [] ∧ mayExecuteLoadall realV1 = true ∧ ImageOk realV1 ∧
      (realV1.mem.byte 0x83F).extractLsb' 5 2 = 0 ∧ (realV1.mem.byte 0x845).extractLsb' 5 2 = 0 := by
  unfold ImageOk
  decide +kernel

theorem witness_LoadallWritesNoMemory :
    (∃ t, exec .loadall realV1 = .next t) ∧ ∃ t, exec .loadall userV3 = .next t := by
  have h1 : isNext (exec .loadall realV1) (fun _ => true) = true := by decide +kernel
  have h2 : isNext (exec .loadall userV3) (fun _ => true) = true := by decide +kernel
  exact ⟨(exists_of_isNext h1).imp fun _ h => h.1, (exists_of_isNext h2).imp fun _ h => h.1⟩

theorem witness_LoadallIdempotent :
    realV1.now.writes = [] ∧ NoErratum realV1 ∧
      isNext (exec .loadall realV1) (fun t => isNext (exec .loadall t) (fun _ => true)) = true := by
  unfold NoErratum
  decide +kernel

/-- With wait states and bit 0 of 804H set (the open case), with no wait states, and with the bit clear. -/
theorem witness_LoadallErratum :
    ((earlyV1 1 1).now.writes = [] ∧ (earlyV1 1 1).isProtected = false ∧ ImageOk (earlyV1 1 1) ∧
      (earlyV1 1 1).params.stepping ≠ .later ∧ ((earlyV1 1 1).mem.word 0x806).getLsbD 0 = false) ∧
    ((earlyV1 0 1).now.writes = [] ∧ (earlyV1 0 1).isProtected = false ∧ ImageOk (earlyV1 0 1) ∧
      (earlyV1 0 1).params.stepping ≠ .later ∧ ((earlyV1 0 1).mem.word 0x806).getLsbD 0 = false ∧
      (earlyV1 0 1).params.areaWaitStates = 0 ∧ busShared (earlyV1 0 1).now = false) ∧
    (ImageOk (earlyV1 1 0xFE) ∧ ((earlyV1 1 0xFE).mem.word 0x806).getLsbD 0 = false ∧
      ((earlyV1 1 0xFE).mem.word 0x804).getLsbD 0 = false) := by
  unfold ImageOk
  decide +kernel

/-- The loaded IP is the loaded limit. -/
theorem witness_LoadallTransfersControl :
    let s := load [0x0F, 0x05] ((imageV1With 0x40 0x00).set 0x41 0x01) (stateOf realRegs)
    mayExecuteLoadall s = true ∧ isNext (exec .loadall s) (fun t => t.regs.csCache.valid = true ∧
      t.regs.csCache.codeTypeListed = true ∧ t.regs.ip.toNat = t.regs.csCache.limit.toNat ∧
      t.regs.csCache.base.toNat + t.regs.ip.toNat < 2 ^ 24) = true := by decide +kernel

theorem witness_LoadallInvalidCs :
    let s := load [0x0F, 0x05] (imageV1With 0x3F 0x1B) (stateOf realRegs)
    mayExecuteLoadall s = true ∧ s.event = none ∧ s.stopped = false ∧ s.inputs = [] ∧
      isNext (exec .loadall s) (fun t => t.regs.csCache.valid = false) = true := by decide +kernel

theorem witness_Op0F04StopsOrFaults :
    mayExecuteLoadall realV1 = true ∧ (mayExecuteLoadall (protV1 1) = true ∧ (protV1 1).isProtected = true) ∧
      mustRefuseLoadall userV3 = true ∧ mustRefuseLoadall (atDpls 1 3) = true ∧
      ((atDpls 0 1).isProtected = true ∧ ((atDpls 0 1).csDpl = 0 ↔ (atDpls 0 1).ssDpl ≠ 0)) := by decide +kernel

/-- A stopped processor, left alone and reset. -/
def stoppedState : State := { stateOf realRegs with stopped := true }

theorem witness_OnlyResetLeavesStopped :
    (stoppedState.stopped = true ∧ (sampleInput stoppedState).now.reset = false) ∧
      ((withInput { Input.quiet with reset := true } stoppedState).stopped = true ∧
        (sampleInput (withInput { Input.quiet with reset := true } stoppedState)).now.reset = true) := by decide

theorem witness_F1ChangesNoInstruction : Instr.loadall ≠ .pfxF1 := by decide

/-- Eight F1H bytes and LOADALL: the longest instruction of a machine with MAX_INSN_LEN 10. -/
theorem witness_PrefixedInstructionRuns :
    let p : PrefixedInstr := { f1s := 8, instr := .loadall }
    let s := load (encodePrefixed p) imageV1 (stateOf realRegs)
    s.inputs = [] ∧ s.now = Input.quiet ∧ s.stopped = false ∧ s.event = none ∧ s.prefixes = 0 ∧
      PrefixedInstr.wellFormed s.params.maxInsnLen p = true ∧
      ∀ j (h : j < (encodePrefixed p).length), fetchByte j s = .ok (encodePrefixed p)[j] := by decide +kernel

theorem witness_ShiftReg6Refused :
    realV1.params.shiftReg6Alias = none ∧
      ({ realV1 with params := { testParams with shiftReg6Alias := some 4 } } : State).params.shiftReg6Alias = some 4 := by
  decide +kernel

/-- Without a transfer; the bytes of a transfer during the step are among the writes of the state LOADALL sees. -/
theorem witness_StepRunsDecodedInstruction :
    (transferPhase (sampleInput realV1) = .next realV1 ∧ AtInstruction realV1 ∧ HasInstruction .loadall realV1) ∧
      isNext (transferPhase (sampleInput transferV1)) (fun u => u.now.writes = [(0x834, 0x99), (0x835, 0x98)]) = true := by
  unfold AtInstruction HasInstruction
  exact ⟨⟨rfl, by decide +kernel⟩, by decide +kernel⟩

theorem witness_StepKeepsWf : realV1.wf = true ∧ isNext (step realV1) (fun _ => true) = true := by decide +kernel

theorem witness_ProtectedModeLeftOnlyByReset :
    isNext (step (protV1 1)) (fun _ => true) = true ∧ (protV1 1).isProtected = true ∧
      (sampleInput (protV1 1)).now.reset = false := by decide +kernel

theorem witness_ParametersFixed : ∃ t, step realV1 = .next t := by
  have h : isNext (step realV1) (fun _ => true) = true := by decide +kernel
  exact (exists_of_isNext h).imp fun _ h => h.1

theorem witness_ResetTakesEffect :
    let s := withInput { Input.quiet with reset := true } (protV1 1)
    (sampleInput s).now.reset = true ∧ (sampleInput s).now.writes = [] := by decide +kernel

/-- An F1H byte at CS:IP, IF set, vector 21H pending. -/
def pendingState : State :=
  withInput { Input.quiet with interrupt := some 0x21 } (load [0xF1] [] (stateOf { realRegs with flags := 0x0200 }))

theorem witness_InterruptTaken :
    (sampleInput pendingState).now.reset = false ∧ pendingState.stopped = false ∧ pendingState.event = none ∧
      pendingState.prefixes = 0 ∧ (sampleInput pendingState).now.transfer = none ∧
      (sampleInput pendingState).now.writes = [] ∧ (sampleInput pendingState).now.interrupt = some 0x21 ∧
      pendingState.regs.flags.getLsbD 9 = true ∧
      ∀ t, runInstruction (sampleInput pendingState) = .next t → t.event = none := by
  refine ⟨by decide, by decide, by decide, by decide, by decide, by decide, by decide, by decide, fun t h => ?_⟩
  have hn : isNext (runInstruction (sampleInput pendingState)) (fun u => u.event = none) = true := by decide +kernel
  obtain ⟨u, hu, he⟩ := exists_of_isNext hn
  rw [hu] at h
  cases h
  simpa using he

theorem witness_InterruptMasked :
    let s := withInput { Input.quiet with interrupt := some 0x21 } (load [0xF1] [] (stateOf { realRegs with flags := 0xFDFF }))
    s.inputs = [{ Input.quiet with interrupt := some 0x21 }] ∧ s.regs.flags.getLsbD 9 = false := by decide

/-- In real and in protected mode. -/
theorem witness_OutcomeIsHandedOver :
    let e := some (Event.exception 13 (some 0) 0 0x0500)
    let s := { realV1 with event := e }
    let u := { protV1 1 with event := e }
    ((sampleInput s).now.reset = false ∧ (sampleInput s).now.writes = [] ∧ s.stopped = false ∧ s.event.isSome = true ∧
      s.isProtected = false) ∧
    ((sampleInput u).now.reset = false ∧ (sampleInput u).now.writes = [] ∧ u.stopped = false ∧ u.event.isSome = true) := by
  decide +kernel

/-- An invalid CS cache; an F1H byte at the limit, so that the byte after it is beyond; the first byte of two at the limit. -/
theorem witness_FetchRaisesException :
    (let s := withCache .cs (cacheOf 0 0x1B 0xFFFF);
      AtInstruction (sampleInput s) ∧ (sampleInput s).now.transfer = none ∧ (sampleInput s).now.writes = [] ∧
        s.regs.csCache.valid = false) ∧
    (let s := { withCache .cs (cacheOf 0 0x9B 0x0500) with prefixes := 1 };
      AtInstruction (sampleInput s) ∧ (sampleInput s).now.transfer = none ∧ (sampleInput s).now.writes = [] ∧
        s.regs.csCache.expandDown = false ∧ s.regs.csCache.limit.toNat < s.regs.ip.toNat + s.prefixes) ∧
    (let s := load [0x0F] [] (withCache .cs (cacheOf 0 0x9B 0x0500));
      AtInstruction (sampleInput s) ∧ (sampleInput s).now.transfer = none ∧ (sampleInput s).now.writes = [] ∧
        s.regs.csCache.expandDown = false ∧ fetchByte s.prefixes s = .ok 0x0F ∧ needsSecondByte 0x0F = true ∧
        s.regs.csCache.limit.toNat < s.regs.ip.toNat + s.prefixes + 1) := by
  unfold AtInstruction
  decide

/-- The last byte that may be old after a store by an instruction of two bytes, and the first that may not; a far transfer. -/
theorem witness_PrefetchOldOrNew :
    fetchAddr 1 realV1 = .ok 0x000501 ∧ fetchAddr (2 + realV1.params.prefetchDepth) realV1 = .ok 0x000508 ∧
      realV1.event = none ∧
      ∃ u, farTransfer 0x0100 none 0 (storeMem 2 (fun m => m.setByte 0x001000 1) realV1) = .next u ∧ u.event = none ∧
        fetchAddr 0 u = .ok 0x001000 := by
  have h : ∀ (d : Level) (a : BitVec 1), fetchAddr 0 (stateOf { realRegs with
      ip := 0, csCache := cacheOf 0x001000 (1#1 ++ d ++ 0b1001#4 ++ a) 0xFFFF }) = .ok 0x001000 := by decide
  exact ⟨by decide +kernel, by decide +kernel, rfl, _, rfl, rfl, h Config.realLoadDpl Config.realLoadAccessed⟩

/-- An F1H byte at CS:IP. -/
theorem witness_CachesChangeOnlyAsListed :
    let s := load [0xF1] [] (stateOf realRegs)
    isNext (step s) (fun _ => true) = true ∧ (sampleInput s).now.reset = false ∧ s.stopped = false ∧ s.event = none ∧
      fetchDecode (sampleInput s) ≠ .instr .loadall ∧ fetchDecode (sampleInput s) ≠ .instr .op0F04 := by decide +kernel

/-- The highest address, whose word ends at the lowest. -/
theorem witness_WordStore :
    Memory.wf [(5, 7)] = true ∧ (0x000001 : Addr) ≠ 0xFFFFFF ∧ (0x000001 : Addr) ≠ 0xFFFFFF + 1 := by decide

theorem witness_InvalidCacheReference :
    ((withCache .ds (cacheOf 0 0x73 0xFFFF)).regs.cache .ds).access.getLsbD 7 = false ∧
      ((withCache .ss (cacheOf 0 0x73 0xFFFF)).regs.cache .ss).access.getLsbD 7 = false := by decide

/-- A word at FFFFH, a word of which the second byte is beyond the limit, the limit itself of an expand-down segment. -/
theorem witness_LimitViolation :
    (((withCache .ss (cacheOf 0 0x93 0xFFFF)).regs.cache .ss).valid = true ∧ 0 < 2 ∧ 0xFFFF < 0xFFFF + 2 - 1) ∧
    (let c := (withCache .ds (cacheOf 0 0x93 0x7FFF)).regs.cache .ds;
      c.valid = true ∧ c.expandDown = false ∧ c.limit.toNat < 0x7FFF + 2 - 1) ∧
    (let c := (withCache .ds (cacheOf 0 0x97 0x0FFF)).regs.cache .ds;
      c.valid = true ∧ c.expandDown = true ∧ 0x0FFF ≤ c.limit.toNat) := by decide

/-- The last byte of the physical space, and the first one beyond it, for each setting of PHYS_WRAP. -/
theorem witness_ReferenceAddress :
    let s := withCache .ds (cacheOf 0xFFFFF0 0x93 0xFFFF)
    let c := s.regs.cache .ds
    (0 < 1 ∧ c.valid = true ∧ c.withinLimit (0x000F : Word).toNat 1 = true ∧ rights .ds c .read = .allowed ∧
      c.base.toNat + (0x000F : Word).toNat + 1 ≤ 2 ^ 24) ∧
    (c.withinLimit (0x0010 : Word).toNat 1 = true ∧ 2 ^ 24 ≤ c.base.toNat + (0x0010 : Word).toNat ∧
      s.params.physWrap = none) ∧
    (({ s with params := { testParams with physWrap := some .fault } } : State).params.physWrap = some .fault ∧
      ({ s with params := { testParams with physWrap := some .wrap24 } } : State).params.physWrap = some .wrap24) := by
  decide

/-- A write to data that is not writable, at the limit, and a read of a system segment; one access byte for each row of the
table. -/
theorem witness_RightsTable :
    (let c := (withCache .ds (cacheOf 0 0x91 0x7FFF)).regs.cache .ds;
      c.valid = true ∧ c.withinLimit 0x7FFF 1 = true ∧ rights .ds c .write = .denied) ∧
    (let c := (withCache .ds (cacheOf 0 0x82 0x7FFF)).regs.cache .ds;
      c.valid = true ∧ c.withinLimit 0x7FFF 1 = true ∧ rights .ds c .read = .unspecified) ∧
    ((0x99 : Byte).extractLsb' 3 2 = 3 ∧ (0x99 : Byte).getLsbD 1 = false) ∧
    ((0xFB : Byte).extractLsb' 3 2 = 3 ∧ (0xFB : Byte).getLsbD 1 = true) ∧ (0xF3 : Byte).extractLsb' 1 4 = 9 ∧
    ((0x93 : Byte).extractLsb' 3 2 = 2 ∧ (0x93 : Byte).getLsbD 1 = true) ∧
    ((0x91 : Byte).extractLsb' 3 2 = 2 ∧ (0x91 : Byte).getLsbD 1 = false) := by decide

theorem witness_RealModeSegmentLoad : realV1.isProtected = false := by decide +kernel

/-- The largest null selector, in DS and in ES. -/
theorem witness_NullSelectorLoad :
    (stateOf userRegs).isProtected = true ∧ (SegReg.ds = .ds ∨ SegReg.ds = .es) ∧ (SegReg.es = .ds ∨ SegReg.es = .es) ∧
      (0x0003 : Word).toNat ≤ 3 := by decide

/-- The smallest selector that is not null, with no segment, with one of a level less than CPL, and with one of a level that
is not, which fails or passes as the constant of log 30 says. -/
theorem witness_DescriptorSegmentLoad :
    AtLevel 3 (stateOf userRegs) ∧ 3 < (0x0004 : Word).toNat ∧
      (∀ c : Cache, (none : Option Cache) = some c → c.dpl < 3 ∨ FurtherFails 0 0x0004 c 3) ∧
      (cacheOf 0 0xD3 0).dpl < (3 : Level) ∧ (3 : Level) ≤ (cacheOf 0 0xF3 0).dpl ∧
      (FurtherFails 0 0x0004 (cacheOf 0 0xF3 0) 3 ∨ ¬ FurtherFails 0 0x0004 (cacheOf 0 0xF3 0) 3) := by
  refine ⟨by unfold AtLevel; decide, by decide, ?_, by decide, by decide, Classical.em _⟩
  intro c h
  cases h

theorem witness_SegmentRegisterRead :
    (withCache .es (cacheOf 0 0x73 0xFFFF)).regs.esCache.access.getLsbD 7 = false := by decide

/-- The stack at its top. -/
theorem witness_PushSpPushesOldSp :
    let s := stateOf { realRegs with sp := 0 }
    s.mem.wf = true ∧ segAccess .ss (s.regs.sp - 2).toNat 2 .write false s = .ok 0x00FFFE := by decide

/-- The ends of the range of a byte quotient, and the first values beyond, signed and unsigned. -/
theorem witness_DivisionRange :
    0 < 8 ∧ (255 : Nat) < 2 ^ 8 ∧ 2 ^ 8 ≤ 256 ∧ (-(2 ^ (8 - 1)) ≤ (-128 : Int) ∧ (-128 : Int) < 2 ^ (8 - 1)) ∧
      (127 : Int) < 2 ^ (8 - 1) ∧ (-129 : Int) < -(2 ^ (8 - 1)) ∧ (2 ^ (8 - 1) : Int) ≤ 128 := by decide

/-- Level 1 under IOPL 0; real mode; the level equal to IOPL. -/
theorem witness_IoplRule :
    (AtLevel 1 (atDpls 1 1) ∧ (atDpls 1 1).iopl < 1 ∧ (testString .ins false).op = .ins ∧ (testString .outs false).op = .outs) ∧
      (stateOf realRegs).isProtected = false ∧
      (AtLevel 3 (stateOf { userRegs with flags := 0x3000 }) ∧ 3 ≤ (stateOf { userRegs with flags := 0x3000 }).iopl) := by
  unfold AtLevel
  decide

/-- A stack word that can be read, at level 3 and at level 0, and one that wraps past FFFFH. -/
theorem witness_PopfRespectsPrivilege :
    (AtLevel 3 (stateOf userRegs) ∧
      segAccess .ss (stateOf userRegs).regs.sp.toNat 2 .read false (stateOf userRegs) = .ok 0x220000) ∧
    (AtLevel 0 (stateOf protRegs) ∧
      segAccess .ss (stateOf protRegs).regs.sp.toNat 2 .read false (stateOf protRegs) = .ok 0x000000) ∧
    (let s := stateOf { userRegs with sp := 0xFFFF };
      AtLevel 3 s ∧ segAccess .ss s.regs.sp.toNat 2 .read false s = .error (.exception 12 (some 0))) := by
  unfold AtLevel
  decide

theorem witness_ReturnWithNtSet :
    (stateOf { userRegs with flags := 0x4000 }).isProtected = true ∧
      (stateOf { userRegs with flags := 0x4000 }).regs.flags.getLsbD 14 = true := by decide

/-- DS at DPL 3, and another state with ES at DPL 3; frames with different RPL fields, the largest null selector, no
descriptor, one of a level less than CPL, one whose level is not the RPL, and selectors whose level fits, which fail or pass as
the constant of log 30 says. -/
theorem witness_ReturnFromTrap :
    (AtLevel 3 (stateOf userRegs) ∧ (stateOf userRegs).regs.flags.getLsbD 14 = false ∧
      (stateOf userRegs).regs.dsCache.dpl = 3 ∧
      (stateOf { userRegs with esCache := userRegs.dsCache }).regs.esCache.dpl = 3) ∧
    (0x3000 : Word).extractLsb' 0 2 ≠ (0x2001 : Word).extractLsb' 0 2 ∧ (0x0003 : Word).toNat ≤ 3 ∧
      3 < (0x3003 : Word).toNat ∧
      (∀ c : Cache, (none : Option Cache) = some c → ¬ LevelFits 0x3003 c 3 ∨ FurtherFails 1 0x3003 c 3) ∧
      ¬ LevelFits 0x3003 (cacheOf 0 0xDB 0) 3 ∧ ¬ LevelFits 0x3002 (cacheOf 0 0xFB 0) 3 ∧
      (0x3003 : Word).extractLsb' 0 2 = (0x2003 : Word).extractLsb' 0 2 ∧ LevelFits 0x3003 (cacheOf 0 0xFB 0) 3 ∧
      LevelFits 0x2003 (cacheOf 0 0xF3 0) 3 ∧
      (FurtherFails 1 0x3003 (cacheOf 0 0xFB 0) 3 ∨ ¬ FurtherFails 1 0x3003 (cacheOf 0 0xFB 0) 3) ∧
      (FurtherFails 2 0x2003 (cacheOf 0 0xF3 0) 3 ∨ ¬ FurtherFails 2 0x2003 (cacheOf 0 0xF3 0) 3) := by
  refine ⟨by unfold AtLevel; decide, by decide, by decide, by decide, ?_, ?_, ?_, by decide, ?_, ?_, Classical.em _,
    Classical.em _⟩
  · intro c h
    cases h
  all_goals unfold LevelFits; decide

theorem witness_IntGate : AtLevel 3 (stateOf userRegs) ∧ (2 : Level) < 3 ∧ (3 : Level) ≤ 3 := by
  unfold AtLevel
  decide

theorem witness_EscWithTsSet : (stateOf { realRegs with msw := 0x0008 }).regs.msw.getLsbD 3 = true := by decide

/-- A word of which the second byte is beyond the limit, and one at 10000H. -/
theorem witness_ExtensionOverrun :
    (let s := withCache .ds (cacheOf 0 0x93 0x7FFF);
      (s.regs.cache .ds).valid = true ∧ (s.regs.cache .ds).expandDown = false ∧
        (s.regs.cache .ds).limit.toNat < 0x7FFF + 1 ∧ (s.regs.cache .ds).limit.toNat < (0x7FFF : Word).toNat + 1 ∧
        s.regs.msw.getLsbD 3 = false ∧ s.now.error = false ∧ s.px.needsInit = false) ∧
    ((stateOf realRegs).regs.cache .ds).limit.toNat < 0x10000 + 1 := by decide

theorem witness_FninitForcesIdle :
    (stateOf realRegs).regs.msw.getLsbD 3 = false ∧ (stateOf realRegs).now.error = false := by decide

/-- One fault of each string instruction. -/
theorem witness_StringRestart :
    ∀ o : StringOp, (StringFault.mk o true true false false true true).op = o := fun _ => rfl

/-- ES beyond its limit in its second byte; ES null in protected mode; the stack beyond its limit; on a later stepping and
on A1. -/
theorem witness_SavedIpBySteppings :
    let beyond := stateOf { realRegs with di := 0x7FFF, esCache := cacheOf 0 0x93 0x7FFF }
    let null := stateOf { protRegs with es := 3, esCache := cacheOf 0 0x13 0xFFFF }
    let full := stateOf { realRegs with sp := 0x8001, ssCache := cacheOf 0 0x93 0x7FFF }
    (Beyond .es 0x7FFF 2 beyond ∧ (∃ v, segReadWord .ss beyond.regs.sp beyond = .ok v) ∧
      beyond.regs.msw.getLsbD 3 = false ∧ beyond.now.error = false ∧
      Beyond .es beyond.regs.di (testString .movs false).size beyond ∧
      (∃ a, segAccess .ds beyond.regs.si.toNat 2 .read false beyond = .ok a) ∧ beyond.isProtected = false ∧
      (testString .ins false).port.toNat < 0x00F8) ∧
    (NullIn .es null ∧ ∃ v, segReadWord .ss null.regs.sp null = .ok v) ∧
      StringInstr.src { testString .movs false with src := .es } = .es ∧
    (Beyond .ss (full.regs.sp - 2) 2 full ∧ ∃ v, segReadWord .ds 0 full = .ok v) ∧
    beyond.params.stepping = .later ∧ beyond.regs.ip.toNat + 1 < 2 ^ 16 ∧
      Beyond .es 0x7FFF 2 (onA1 beyond) ∧ (onA1 beyond).params.stepping ≠ .later := by
  unfold Beyond NullIn
  exact ⟨⟨by decide, ⟨0, by decide⟩, by decide, by decide, by decide, ⟨0, by decide⟩, by decide, by decide⟩,
    ⟨by decide, ⟨0, by decide⟩⟩, rfl, ⟨by decide, ⟨0, by decide⟩⟩, by decide, by decide, by decide, by decide⟩

/-- A source, and a destination, beyond the limit in its second byte, repeated and not; both within it; one and the other
invalid. -/
theorem witness_MovsFaultRegisters :
    let src := stateOf { realRegs with si := 0x7FFF, dsCache := cacheOf 0 0x93 0x7FFF }
    let dst := stateOf { realRegs with di := 0x7FFF, esCache := cacheOf 0 0x93 0x7FFF }
    (testString .movs true).op = .movs ∧ Beyond (testString .movs true).src src.regs.si (testString .movs true).size src ∧
      (∃ a, segAccess .ds dst.regs.si.toNat 2 .read false dst = .ok a) ∧
      segAccess .es src.regs.di.toNat 2 .write false (stateOf realRegs) = .ok 0 ∧
      Beyond .es dst.regs.di (testString .movs false).size dst ∧ src.params.stepping = .later ∧
      Beyond .ds (onA1 src).regs.si 2 (onA1 src) ∧ (onA1 src).params.stepping ≠ .later ∧
      (testString .movs true).src ≠ .ss ∧ ((withCache .ds (cacheOf 0 0x13 0xFFFF)).regs.cache .ds).valid = false ∧
      (∃ a, segAccess .ds (withCache .es (cacheOf 0 0x13 0xFFFF)).regs.si.toNat 2 .read false
        (withCache .es (cacheOf 0 0x13 0xFFFF)) = .ok a) ∧
      ((withCache .es (cacheOf 0 0x13 0xFFFF)).regs.cache .es).valid = false := by
  unfold Beyond
  exact ⟨by decide, by decide, ⟨0, by decide⟩, by decide, by decide, by decide, by decide, by decide, by decide, by decide,
    ⟨0, by decide⟩, by decide⟩

end Sys2Proof.Tests
end

section
/-! The parameters of the machine (10_state.md R34): each operation on the way of a step keeps `State.params`, in the order
in which `step` calls them. -/

namespace Sys2Proof.Machine

/-! ### The operations that update the state without a condition for stopping -/

@[simp] theorem sampleInput_params (s : State) : (sampleInput s).params = s.params := by
  obtain ⟨_, _, _, _, _, _, hparams⟩ := sampleInput_frame s
  exact hparams

@[simp] theorem idleStopped_params (s : State) : (idleStopped s).params = s.params := rfl

@[simp] theorem enterHandler_params (s : State) : (enterHandler s).params = s.params := by
  unfold enterHandler
  split <;> exact scramble_params s

@[simp] theorem overrun_params (p : PxTransfer) (s : State) : (overrun p s).params = s.params := rfl

@[simp] theorem finishStep_params (s : State) : (finishStep s).params = s.params := by
  obtain ⟨_, h⟩ | ⟨_, h⟩ := finishStep_cases s
  · rw [h]
  · rw [h, storeMem_params]

/-! ### The instruction at CS:IP -/

theorem execLoadall_keeps_params {s t : State} (h : execLoadall s = .next t) : t.params = s.params := by
  obtain ⟨_, _, _, _, rfl⟩ | ⟨_, rfl⟩ := execLoadall_cases h
  · rfl
  · exact takeException_params ..

theorem execOp0F04_keeps_params {s t : State} (h : execOp0F04 s = .next t) : t.params = s.params := by
  obtain rfl | ⟨_, rfl⟩ := execOp0F04_cases h
  · exact enterStopped_params s
  · exact takeException_params ..

theorem exec_keeps_params {i : Instr} {s t : State} (h : exec i s = .next t) : t.params = s.params := by
  obtain ⟨_, h⟩ | ⟨_, h⟩ | ⟨_, rfl⟩ := exec_cases h
  · exact execLoadall_keeps_params h
  · exact execOp0F04_keeps_params h
  · rfl

theorem runInstruction_keeps_params {s t : State} (h : runInstruction s = .next t) : t.params = s.params := by
  obtain ⟨_, _, hexec⟩ | ⟨_, _, _, rfl⟩ := runInstruction_cases h
  · exact exec_keeps_params hexec
  · exact takeException_params ..

/-! ### The boundary: a transfer of the processor extension, then an interrupt or the instruction -/

theorem interruptFirst_keeps_params {v : Byte} {s t : State}
    (h : interruptFirst v s (runInstruction s) = .next t) : t.params = s.params := by
  obtain ⟨u, hrun, _, rfl⟩ | ⟨_, rfl⟩ := interruptFirst_cases h
  · have hu : u.params = s.params := runInstruction_keeps_params hrun
    exact hu
  · exact takeInterrupt_params ..

theorem transferOp_keeps_params {p : PxTransfer} {s t : State} (h : transferOp p s = .next t) :
    t.params = s.params := by
  obtain rfl | ⟨_, _, rfl⟩ | rfl | ⟨_, _, _, rfl⟩ := transferOp_cases h
  · rfl
  · exact writeDuringStep_params ..
  · exact overrun_params ..
  · exact takeException_params ..

theorem transferPhase_keeps_params {s t : State} (h : transferPhase s = .next t) : t.params = s.params := by
  unfold transferPhase at h
  split at h
  · cases h; rfl
  · exact transferOp_keeps_params h

theorem boundary_keeps_params {s t : State} (h : boundary s = .next t) : t.params = s.params := by
  obtain ⟨u, htransfer, hrest⟩ := boundary_cases h
  have hu : u.params = s.params := transferPhase_keeps_params htransfer
  obtain ⟨_, rfl⟩ | ⟨_, ⟨_, hrun⟩ | ⟨_, _, hint⟩⟩ := hrest
  · exact hu
  · exact (runInstruction_keeps_params hrun).trans hu
  · exact (interruptFirst_keeps_params hint).trans hu

/-! ### The step -/

theorem processorStep_keeps_params {s t : State} (h : processorStep s = .next t) : t.params = s.params := by
  obtain ⟨_, rfl⟩ | ⟨_, _, rfl⟩ | ⟨_, _, _, rfl⟩ | ⟨_, _, _, hboundary⟩ := processorStep_cases h
  · exact resetProcessor_params s
  · exact idleStopped_params s
  · exact enterHandler_params s
  · exact boundary_keeps_params hboundary

theorem step_keeps_params {s t : State} (h : step s = .next t) : t.params = s.params := by
  obtain ⟨u, hu, rfl⟩ := mapNext_cases h
  calc (finishStep u).params = u.params := finishStep_params u
    _ = (sampleInput s).params := processorStep_keeps_params hu
    _ = s.params := sampleInput_params s

/-- Settles O29: what the processor does in a step keeps the parameters, and so do the sampling of the input before it and
the other bus masters' writes after it. -/
theorem parametersFixed : Obligations.ParametersFixed := fun _ _ => step_keeps_params

end Sys2Proof.Machine
end

section
/-! The two-byte opcodes (30_encoding.md R83): after 0FH the second byte alone decides, and the cases of that byte. -/

namespace Sys2Proof

/-- The opcode 0FH always waits for its second byte and leaves the answer to it. -/
theorem decode_0F_cons (c : Byte) (rest : List Byte) : decode (0x0F :: c :: rest) = decodeTwoByte c := by
  have hsecond : needsSecondByte 0x0F = true := rfl
  simp only [decode, decodeTwo, hsecond, if_true]

@[simp] theorem decodeTwoByte_05 : decodeTwoByte 0x05 = .instr .loadall 2 := rfl

@[simp] theorem decodeTwoByte_04 : decodeTwoByte 0x04 = .instr .op0F04 2 := rfl

theorem decodeTwoByte_of_ne {c : Byte} (h4 : c ≠ 0x04) (h5 : c ≠ 0x05) :
    decodeTwoByte c = .refuse (.secondByteNotInSource c) := by
  unfold decodeTwoByte
  rw [if_neg h5, if_neg h4]

end Sys2Proof

namespace Sys2Proof.Machine

/-- Settles O3: the decoder answers what the second byte says, and R83 assigns two of them. -/
theorem otherSecondBytesRefused : Obligations.OtherSecondBytesRefused := by
  intro b rest
  refine ⟨?loadall, ?op0F04, fun h4 h5 => ?refused⟩
  case loadall => exact (decode_0F_cons 0x05 rest).trans decodeTwoByte_05
  case op0F04 => exact (decode_0F_cons 0x04 rest).trans decodeTwoByte_04
  case refused => exact (decode_0F_cons b rest).trans (decodeTwoByte_of_ne h4 h5)

end Sys2Proof.Machine
end

section
/-! LOADALL past its privilege check (40_loadall.md R102, R107, R110): when it completes, what it leaves in MSW, and with
that the mode it leaves (R111). -/

namespace Sys2Proof.Machine

theorem exec_loadall (s : State) : exec .loadall s = execLoadall s := rfl

/-! ### When LOADALL completes -/

theorem mayExecuteLoadall_iff {s : State} :
    mayExecuteLoadall s = true ↔ s.isProtected = false ∨ (s.csDpl = 0 ∧ s.ssDpl = 0) := by
  simp [mayExecuteLoadall]

theorem areaOk_iff {s : State} :
    areaOk s = true ↔
      (s.isProtected = true → (areaWord 0x06 s).getLsbD 0 = true) ∧ areaByte 0x51 s = 0 ∧ areaByte 0x5D s = 0 := by
  cases hp : s.isProtected <;> simp [areaOk, hp, and_assoc]

/-- Where no other bus master writes, the requirements on the area are requirements on memory. -/
theorem areaOk_iff_imageOk {s : State} (hquiet : s.now.writes = []) : areaOk s = true ↔ ImageOk s := by
  have h06 : areaWord 0x06 s = s.mem.word 0x806 := areaWord_quiet hquiet 0x06
  have h51 : areaByte 0x51 s = s.mem.byte 0x851 := areaByte_quiet hquiet (by decide)
  have h5D : areaByte 0x5D s = s.mem.byte 0x85D := areaByte_quiet hquiet (by decide)
  rw [areaOk_iff, h06, h51, h5D, ImageOk]

theorem requireCpl0_of_mayExecuteLoadall {s : State} (hmay : mayExecuteLoadall s = true) (code : Word)
    (body : State → Outcome) : requireCpl0 code body s = body s := by
  obtain hreal | ⟨hcs, hss⟩ := mayExecuteLoadall_iff.mp hmay
  · simp [requireCpl0, hreal]
  · simp [requireCpl0, State.askCpl, hcs, hss]

theorem loadallBody_of_areaOk {s : State} (harea : areaOk s = true) :
    loadallBody s =
      .next { s with regs := loadedRegs s, prefetch := [], prefixes := 0, draws := s.draws + loadallDraws } := by
  obtain ⟨hbit, h51, h5D⟩ := areaOk_iff.mp harea
  have hmode : ¬(s.isProtected && !(areaWord 0x06 s).getLsbD 0) = true := by simpa using hbit
  have hbytes : ¬(areaByte 0x51 s != 0 || areaByte 0x5D s != 0) = true := by simp [h51, h5D]
  rw [loadallBody, if_neg hmode, if_neg hbytes]

theorem execLoadall_completes {s : State} (hmay : mayExecuteLoadall s = true) (harea : areaOk s = true) :
    execLoadall s =
      .next { s with regs := loadedRegs s, prefetch := [], prefixes := 0, draws := s.draws + loadallDraws } :=
  (requireCpl0_of_mayExecuteLoadall hmay 0 loadallBody).trans (loadallBody_of_areaOk harea)

/-! ### The MSW it loads -/

theorem loadedMsw_of_not_erratum {s : State} (h : mswErratum s = false) : loadedMsw s = areaWord 0x06 s := by
  simp [loadedMsw, h]

/-- The erratum is one of real mode, whatever the other bus masters do. -/
theorem mswErratum_of_isProtected {s : State} (h : s.isProtected = true) : mswErratum s = false := by
  simp [mswErratum, h]

theorem loadedMsw_of_noErratum {s : State} (hquiet : s.now.writes = []) (herr : NoErratum s) :
    loadedMsw s = s.mem.word 0x806 := by
  rw [loadedMsw_of_not_erratum (mswErratum_eq_false hquiet herr)]
  exact areaWord_quiet hquiet 0x06

/-! ### The mode it leaves -/

/-- Where LOADALL completes, the mode after it is bit 0 of the word at 806H, from either mode. -/
theorem execLoadall_mode {s : State} (hquiet : s.now.writes = []) (hmay : mayExecuteLoadall s = true)
    (himage : ImageOk s) (herr : NoErratum s) :
    ∃ t, execLoadall s = .next t ∧ t.isProtected = (s.mem.word 0x806).getLsbD 0 :=
  ⟨_, execLoadall_completes hmay ((areaOk_iff_imageOk hquiet).mpr himage),
    congrArg mswProtected (loadedMsw_of_noErratum hquiet herr)⟩

/-- LOADALL does not return to real mode (40_loadall.md R110), whatever the area and the other bus masters. -/
theorem execLoadall_keeps_protected {s t : State} (hp : s.isProtected = true) (h : execLoadall s = .next t) :
    t.isProtected = true := by
  obtain ⟨_, hbit, _, _, rfl⟩ | ⟨_, rfl⟩ := execLoadall_cases h
  case inl =>
    have hmsw : loadedMsw s = areaWord 0x06 s := loadedMsw_of_not_erratum (mswErratum_of_isProtected hp)
    exact (congrArg mswProtected hmsw).trans (hbit hp)
  case inr => exact (takeException_isProtected ..).trans hp

/-- Settles O9: from real mode the area need not have the bit set, from protected mode it must; where LOADALL completes,
the bit is the mode. -/
theorem loadallMode : Obligations.LoadallMode := by
  intro s hquiet hmay h851 h85D herr
  simp only [exec_loadall]
  refine ⟨fun hreal => ?fromReal, fun _ hbit => ?protectedToProtected, fun hp _ => execLoadall_keeps_protected hp⟩
  case fromReal =>
    have himage : ImageOk s := ⟨by simp [hreal], h851, h85D⟩
    exact execLoadall_mode hquiet hmay himage herr
  case protectedToProtected =>
    have himage : ImageOk s := ⟨fun _ => hbit, h851, h85D⟩
    exact hbit ▸ execLoadall_mode hquiet hmay himage herr

end Sys2Proof.Machine
end

section
/-! The aliased opcodes, their targets and D6H (41_undocumented_opcodes.md R132, R134, R136, R137): an alias is `exec` of its
target, and the source describes neither the targets nor D6H. -/

namespace Sys2Proof.Machine

variable (m : BitVec 2) (x r : BitVec 3) (s : State)

/-! ### The targets -/

theorem targetOf_eq_refused (t : Target) : targetOf t s = .refused (.semanticsNotInSource t) := rfl

theorem exec_grp80 : exec (.grp80 m x r) s = targetOf .group80 s := rfl

theorem exec_testF6Reg0 : exec (.testF6Reg0 m r) s = targetOf .testF6 s := rfl

theorem exec_testF7Reg0 : exec (.testF7Reg0 m r) s = targetOf .testF7 s := rfl

/-! ### The aliases -/

theorem exec_alias82 : exec (.alias82 m x r) s = exec (.grp80 m x r) s := rfl

theorem exec_testF6Reg1 : exec (.testF6Reg1 m r) s = exec (.testF6Reg0 m r) s := rfl

theorem exec_testF7Reg1 : exec (.testF7Reg1 m r) s = exec (.testF7Reg0 m r) s := rfl

/-! ### D6H -/

theorem exec_opD6 : exec .opD6 s = execOpD6 s := rfl

theorem execOpD6_eq_refused : execOpD6 s = .refused .proprietaryOpcode := rfl

end Sys2Proof.Machine
end

section
/-! The statements of 41_undocumented_opcodes.md R132, R134 and R136. -/

namespace Sys2Proof.Machine

/-- Settles O22: each alias runs as its target, so the target's refusal is the alias's. -/
theorem aliasesActAsTargets : Obligations.AliasesActAsTargets := by
  intro m x r s
  refine ⟨exec_alias82 m x r s, exec_testF6Reg1 m r s, exec_testF7Reg1 m r s, ?op82, ?opF6, ?opF7⟩
  case op82 => rw [exec_alias82, exec_grp80, targetOf_eq_refused]
  case opF6 => rw [exec_testF6Reg1, exec_testF6Reg0, targetOf_eq_refused]
  case opF7 => rw [exec_testF7Reg1, exec_testF7Reg0, targetOf_eq_refused]

/-- Settles O24: the meaning of D6H does not look at the state. -/
theorem opD6Refused : Obligations.OpD6Refused := fun s => (exec_opD6 s).trans (execOpD6_eq_refused s)

end Sys2Proof.Machine
end

section
/-! The shift count (42_other_instructions.md R153). -/

namespace Sys2Proof.Machine

theorem shiftCount_toNat (c : Byte) : (shiftCount c).toNat = c.toNat % 32 := by
  rw [shiftCount, BitVec.extractLsb'_toNat, Nat.shiftRight_zero]

/-- Settles O48: the slice that `shiftCount` takes is the remainder by 2^5. -/
theorem shiftCountMasked : Obligations.ShiftCountMasked := shiftCount_toNat

end Sys2Proof.Machine
end

section
/-! The byte after the opcode and its three fields (30_encoding.md R85), and the decoder against the encoder (R86, R91,
R92). -/

namespace Sys2Proof

/-! ### The fields of the byte after the opcode -/

theorem getLsbD_modRM (m : BitVec 2) (x r : BitVec 3) (j : Nat) :
    (modRM m x r).getLsbD j = if j < 3 then r.getLsbD j else if j < 6 then x.getLsbD (j - 3) else m.getLsbD (j - 6) := by
  have h : (modRM m x r).getLsbD j = ((m ++ x : BitVec (2 + 3)) ++ r : BitVec (2 + 3 + 3)).getLsbD j := rfl
  rw [h, BitVec.getLsbD_append, BitVec.getLsbD_append]
  by_cases h3 : j < 3
  · simp [h3]
  · by_cases h6 : j < 6
    · simp [h3, h6, show j - 3 < 3 by omega]
    · simp [h3, h6, show ¬ j - 3 < 3 by omega, show j - 3 - 3 = j - 6 by omega]

@[simp] theorem modField_modRM (m : BitVec 2) (x r : BitVec 3) : modField (modRM m x r) = m := by
  apply BitVec.eq_of_getLsbD_eq
  intro j hj
  simp [modField, getLsbD_modRM, hj, show ¬ 6 + j < 3 by omega]

@[simp] theorem regField_modRM (m : BitVec 2) (x r : BitVec 3) : regField (modRM m x r) = x := by
  apply BitVec.eq_of_getLsbD_eq
  intro j hj
  simp [regField, getLsbD_modRM, hj, show 3 + j < 6 by omega]

@[simp] theorem rmField_modRM (m : BitVec 2) (x r : BitVec 3) : rmField (modRM m x r) = r := by
  apply BitVec.eq_of_getLsbD_eq
  intro j hj
  simp [rmField, getLsbD_modRM, hj]

/-- The three fields are the whole byte: no bit of it is dropped. -/
@[simp] theorem modRM_fields (c : Byte) : modRM (modField c) (regField c) (rmField c) = c := by
  apply BitVec.eq_of_getLsbD_eq
  intro j hj
  rw [getLsbD_modRM]
  by_cases h3 : j < 3
  · simp [rmField, h3]
  · by_cases h6 : j < 6
    · simp [regField, h3, h6, show j - 3 < 3 by omega, show 3 + (j - 3) = j by omega]
    · simp [modField, h3, h6, show j - 6 < 2 by omega, show 6 + (j - 6) = j by omega]

/-! ### From an instruction to its bytes and back -/

theorem decode_cons_of_single {b : Byte} (h : needsSecondByte b = false) (rest : List Byte) :
    decode (b :: rest) = decodeOne b := by
  cases rest <;> simp [decode, h]

theorem decode_cons_of_double {b : Byte} (h : needsSecondByte b = true) (c : Byte) (rest : List Byte) :
    decode (b :: c :: rest) = decodeTwo b c := by
  simp [decode, h]

/-- The bytes that follow an encoding take no part in its decoding. -/
theorem decode_encode_append (i : Instr) (rest : List Byte) : decode (encode i ++ rest) = .instr i i.length := by
  cases i with
  | loadall => exact decode_cons_of_double rfl _ _
  | op0F04 => exact decode_cons_of_double rfl _ _
  | opD6 => exact decode_cons_of_single rfl _
  | pfxF1 => exact decode_cons_of_single rfl _
  | alias82 m x r => exact (decode_cons_of_double rfl (modRM m x r) rest).trans (by simp [decodeTwo, Instr.length])
  | grp80 m x r => exact (decode_cons_of_double rfl (modRM m x r) rest).trans (by simp [decodeTwo, Instr.length])
  | shiftD0Reg6 m r =>
    exact (decode_cons_of_double rfl (modRM m 6 r) rest).trans (by simp [decodeTwo, decodeShift, Instr.length])
  | shiftD1Reg6 m r =>
    exact (decode_cons_of_double rfl (modRM m 6 r) rest).trans (by simp [decodeTwo, decodeShift, Instr.length])
  | testF6Reg0 m r =>
    exact (decode_cons_of_double rfl (modRM m 0 r) rest).trans (by simp [decodeTwo, decodeTest, Instr.length])
  | testF7Reg0 m r =>
    exact (decode_cons_of_double rfl (modRM m 0 r) rest).trans (by simp [decodeTwo, decodeTest, Instr.length])
  | testF6Reg1 m r =>
    exact (decode_cons_of_double rfl (modRM m 1 r) rest).trans (by simp [decodeTwo, decodeTest, Instr.length])
  | testF7Reg1 m r =>
    exact (decode_cons_of_double rfl (modRM m 1 r) rest).trans (by simp [decodeTwo, decodeTest, Instr.length])

@[simp] theorem encode_length (i : Instr) : (encode i).length = i.length := by cases i <;> rfl

/-! ### From bytes to an instruction and back -/

theorem encode_of_decodeOne {b : Byte} {i : Instr} {n : Nat} (h : decodeOne b = .instr i n) : encode i = [b] := by
  unfold decodeOne at h
  split at h
  · next hb => cases h; rw [hb]; rfl
  · split at h
    · next hb => cases h; rw [hb]; rfl
    · cases h

theorem encode_of_decodeTwoByte {c : Byte} {i : Instr} {n : Nat} (h : decodeTwoByte c = .instr i n) :
    encode i = [0x0F, c] := by
  unfold decodeTwoByte at h
  split at h
  · next hc => cases h; rw [hc]; rfl
  · split at h
    · next hc => cases h; rw [hc]; rfl
    · cases h

theorem encode_of_decodeShift {w : Bool} {c : Byte} {i : Instr} {n : Nat} (h : decodeShift w c = .instr i n) :
    encode i = [if w then 0xD1 else 0xD0, c] := by
  unfold decodeShift at h
  split at h
  · next hx => cases h; cases w <;> simp [encode, ← hx]
  · cases h

theorem encode_of_decodeTest {w : Bool} {c : Byte} {i : Instr} {n : Nat} (h : decodeTest w c = .instr i n) :
    encode i = [if w then 0xF7 else 0xF6, c] := by
  unfold decodeTest at h
  split at h
  · next hx => cases h; cases w <;> simp [encode, ← hx]
  · split at h
    · next hx => cases h; cases w <;> simp [encode, ← hx]
    · cases h

/-- Each opcode byte with a second one hands over to the row of that opcode. -/
theorem encode_of_decodeTwo {b c : Byte} {i : Instr} {n : Nat} (h : decodeTwo b c = .instr i n) : encode i = [b, c] := by
  unfold decodeTwo at h
  split at h
  · next hb => rw [hb]; exact encode_of_decodeTwoByte h
  split at h
  · next hb => cases h; simp [encode, hb]
  split at h
  · next hb => cases h; simp [encode, hb]
  split at h
  · next hb => rw [hb]; exact encode_of_decodeShift h
  split at h
  · next hb => rw [hb]; exact encode_of_decodeShift h
  split at h
  · next hb => rw [hb]; exact encode_of_decodeTest h
  split at h
  · next hb => rw [hb]; exact encode_of_decodeTest h
  · cases h

/-- Bytes that decode to an instruction are its encoding and a rest. -/
theorem eq_encode_append_of_decode {bs : List Byte} {i : Instr} {n : Nat} (h : decode bs = .instr i n) :
    ∃ rest, bs = encode i ++ rest := by
  rcases bs with _ | ⟨b, rest⟩
  · cases h
  cases hb : needsSecondByte b with
  | false =>
    rw [decode_cons_of_single hb] at h
    exact ⟨rest, by rw [encode_of_decodeOne h]; rfl⟩
  | true =>
    rcases rest with _ | ⟨c, rest⟩
    · simp [decode, hb] at h
    · rw [decode_cons_of_double hb] at h
      exact ⟨rest, by rw [encode_of_decodeTwo h]; rfl⟩

end Sys2Proof

namespace Sys2Proof.Machine

/-- Settles O1: constructor by constructor, the fields of the byte after the opcode are read back. -/
theorem decodeInvertsEncode : Obligations.DecodeInvertsEncode :=
  fun i rest => ⟨decode_encode_append i rest, encode_length i⟩

/-- Settles O2: the bytes are an encoding and a rest, and of these O1 says what the decoder answers. -/
theorem decodedBytesAreTheEncoding : Obligations.DecodedBytesAreTheEncoding := by
  intro bs i n h
  obtain ⟨rest, rfl⟩ := eq_encode_append_of_decode h
  rw [decode_encode_append] at h
  cases h
  exact ⟨by rw [← encode_length, List.take_left], rfl⟩

/-- Settles O4: closed evaluations of the decoder on the bytes of the spec, R/M and MOD fields included. -/
theorem specWordsDecode : Obligations.SpecWordsDecode := ⟨rfl, rfl, rfl, rfl, rfl, rfl, rfl, rfl⟩

end Sys2Proof.Machine
end

section
/-! What a step leaves alone: the sampling of the input, the recording of an outcome, a transfer of the processor extension
and the end of the step, field by field. -/

namespace Sys2Proof.Machine

/-! ### Sampling the input -/

section
variable (s : State)

@[simp] theorem sampleInput_regs : (sampleInput s).regs = s.regs := (sampleInput_frame s).1
@[simp] theorem sampleInput_stopped : (sampleInput s).stopped = s.stopped := (sampleInput_frame s).2.1
@[simp] theorem sampleInput_prefetch : (sampleInput s).prefetch = s.prefetch := (sampleInput_frame s).2.2.1
@[simp] theorem sampleInput_mem : (sampleInput s).mem = s.mem := (sampleInput_frame s).2.2.2.1
@[simp] theorem sampleInput_prefixes : (sampleInput s).prefixes = s.prefixes := (sampleInput_frame s).2.2.2.2.1
@[simp] theorem sampleInput_event : (sampleInput s).event = s.event := (sampleInput_frame s).2.2.2.2.2.1

end

/-- The mode is a matter of the registers alone. -/
theorem isProtected_congr {s t : State} (h : t.regs = s.regs) : t.isProtected = s.isProtected := by
  simp [State.isProtected, h]

/-! ### Recording an outcome -/

theorem takeException_eq_excepted (n : Nat) (code : Option Word) (s : State) : takeException n code s = excepted n code s :=
  rfl

theorem protectionException_eq_excepted (code : Word) (s : State) :
    protectionException code s = excepted 13 (some code) s := rfl

theorem raise_exception (n : Nat) (code : Option Word) (s : State) :
    raise (.exception n code) s = .next (excepted n code s) := rfl

/-- What a step leaves that ends in an exception or interrupt: registers and memory are those before it, and no instruction
is in progress (60_exceptions.md R247). -/
structure RecordsOutcome (s t : State) : Prop where
  event : t.event.isSome = true
  regs : t.regs = s.regs
  mem : t.mem = s.mem
  stopped : t.stopped = s.stopped
  prefixes : t.prefixes = 0

theorem recordsOutcome_takeException (n : Nat) (code : Option Word) (d : Nat) (s : State) :
    RecordsOutcome s (takeException n code { s with draws := d }) := ⟨rfl, rfl, rfl, rfl, rfl⟩

theorem recordsOutcome_takeInterrupt (v : Byte) (d : Nat) (s : State) :
    RecordsOutcome s (takeInterrupt v { s with draws := d }) := ⟨rfl, rfl, rfl, rfl, rfl⟩

theorem recordsOutcome_overrun (p : PxTransfer) (s : State) : RecordsOutcome s (overrun p s) := ⟨rfl, rfl, rfl, rfl, rfl⟩

/-! ### A transfer of the processor extension -/

/-- A transfer that raises nothing is at most a write during the step. -/
theorem transferPhase_cases {s u : State} (h : transferPhase s = .next u) :
    (∃ w, u = writeDuringStep w s) ∨ RecordsOutcome s u := by
  unfold transferPhase at h
  split at h
  · cases h; exact .inl ⟨[], rfl⟩
  · obtain rfl | ⟨a, v, rfl⟩ | rfl | ⟨n, code, d, rfl⟩ := transferOp_cases h
    · exact .inl ⟨[], rfl⟩
    · exact .inl ⟨wordBytes a v, rfl⟩
    · exact .inr (recordsOutcome_overrun _ s)
    · exact .inr (recordsOutcome_takeException n code d s)

theorem transferPhase_of_no_outcome {s u : State} (h : transferPhase s = .next u) (he : u.event = none) :
    ∃ w, u = writeDuringStep w s := by
  obtain hw | hr := transferPhase_cases h
  · exact hw
  · exact absurd hr.event (by simp [he])

theorem transferPhase_of_no_transfer {s : State} (h : s.now.transfer = none) : transferPhase s = .next s := by
  simp [transferPhase, h]

/-! ### The instruction -/

/-- An instruction that records an outcome records no more than that, and leaves the pending one where it does not. -/
theorem exec_outcome_cases {i : Instr} {s t : State} (h : exec i s = .next t) (he : s.event = none) :
    RecordsOutcome s t ∨ t.event = none := by
  obtain ⟨_, h⟩ | ⟨_, h⟩ | ⟨_, rfl⟩ := exec_cases h
  · obtain ⟨_, _, _, _, rfl⟩ | ⟨_, rfl⟩ := execLoadall_cases h
    · exact .inr he
    · exact .inl (recordsOutcome_takeException _ _ s.draws s)
  · obtain rfl | ⟨_, rfl⟩ := execOp0F04_cases h
    · exact .inr rfl
    · exact .inl (recordsOutcome_takeException _ _ s.draws s)
  · exact .inr he

theorem runInstruction_outcome_cases {s t : State} (h : runInstruction s = .next t) (he : s.event = none) :
    RecordsOutcome s t ∨ (t.event = none ∧ ∃ i, fetchDecode s = .instr i ∧ exec i s = .next t) := by
  obtain ⟨i, hi, hexec⟩ | ⟨n, code, d, rfl⟩ := runInstruction_cases h
  · exact (exec_outcome_cases hexec he).imp_right fun ht => ⟨ht, i, hi, hexec⟩
  · exact .inl (recordsOutcome_takeException n code d s)

/-- What a boundary with no outcome pending comes to: an outcome is recorded, or the instruction at CS:IP is executed beside
the transfer's write. -/
theorem boundary_outcome_cases {s t : State} (h : boundary s = .next t) (he : s.event = none) :
    RecordsOutcome s t ∨
      (t.event = none ∧ ∃ w i, fetchDecode s = .instr i ∧ exec i (writeDuringStep w s) = .next t) := by
  obtain ⟨u, hu, ⟨hsome, rfl⟩ | ⟨hnone, hrest⟩⟩ := boundary_cases h
  · obtain ⟨w, rfl⟩ | hr := transferPhase_cases hu
    · simp [he] at hsome
    · exact .inl hr
  obtain ⟨w, rfl⟩ := transferPhase_of_no_outcome hu hnone
  have of_write : ∀ {v}, RecordsOutcome (writeDuringStep w s) v → RecordsOutcome s v :=
    fun hv => ⟨hv.event, hv.regs, hv.mem, hv.stopped, hv.prefixes⟩
  obtain ⟨_, hrun⟩ | ⟨v, _, hint⟩ := hrest
  · obtain hr | ⟨ht, i, hi, hexec⟩ := runInstruction_outcome_cases hrun hnone
    · exact .inl (of_write hr)
    · exact .inr ⟨ht, w, i, hi, hexec⟩
  · obtain ⟨x, hrun, hx, rfl⟩ | ⟨d, rfl⟩ := interruptFirst_cases hint
    · obtain hr | ⟨ht, _⟩ := runInstruction_outcome_cases hrun hnone
      · exact .inl (of_write ⟨hx, hr.regs, hr.mem, hr.stopped, hr.prefixes⟩)
      · simp [ht] at hx
    · exact .inl (of_write (recordsOutcome_takeInterrupt v d _))

/-! ### The end of a step -/

theorem finishStep_of_quiet {s : State} (h : s.now.writes = []) : finishStep s = s := by simp [finishStep, h]

section
variable (s : State)

@[simp] theorem finishStep_regs : (finishStep s).regs = s.regs := by
  obtain ⟨_, h⟩ | ⟨_, h⟩ := finishStep_cases s <;> rw [h]
  rfl
@[simp] theorem finishStep_stopped : (finishStep s).stopped = s.stopped := by
  obtain ⟨_, h⟩ | ⟨_, h⟩ := finishStep_cases s <;> rw [h]
  rfl

end

/-- All ways to the next state of a step, before the other bus masters' writes: RESET, a stopped processor, the handler of a
pending outcome, a new outcome, or the instruction at CS:IP. -/
theorem step_cases {s t : State} (h : step s = .next t) :
    ∃ u, t = finishStep u ∧
      (((sampleInput s).now.reset = true ∧ u = resetProcessor (sampleInput s)) ∨
        ((sampleInput s).now.reset = false ∧
          ((s.stopped = true ∧ u = idleStopped (sampleInput s)) ∨
            (s.stopped = false ∧ s.event.isSome = true ∧ u = enterHandler (sampleInput s)) ∨
            (s.stopped = false ∧ s.event = none ∧
              (RecordsOutcome (sampleInput s) u ∨ (u.event = none ∧
                ∃ w i, fetchDecode (sampleInput s) = .instr i ∧ exec i (writeDuringStep w (sampleInput s)) = .next u)))))) := by
  obtain ⟨u, hu, rfl⟩ := mapNext_cases h
  refine ⟨u, rfl, ?_⟩
  obtain ⟨hr, rfl⟩ | ⟨hr, hs, rfl⟩ | ⟨hr, hs, he, rfl⟩ | ⟨hr, hs, he, hb⟩ := processorStep_cases hu
  · exact .inl ⟨hr, rfl⟩
  · exact .inr ⟨hr, .inl ⟨by simpa using hs, rfl⟩⟩
  · exact .inr ⟨hr, .inr (.inl ⟨by simpa using hs, by simpa using he, rfl⟩)⟩
  · exact .inr ⟨hr, .inr (.inr ⟨by simpa using hs, by simpa using he, boundary_outcome_cases hb he⟩)⟩

end Sys2Proof.Machine
end

section
/-! The invariant of the machine (`State.wf`; logs 7, 14, 15) and the mode (60_exceptions.md R251): both along every step,
one lemma for each way a step can go. -/

namespace Sys2Proof.Machine

/-! ### The invariant, part by part -/

theorem wf_iff {s : State} : s.wf = true ↔
    s.mem.wf = true ∧ (s.event = none → s.prefetch.length ≤ s.prefixes + s.params.prefetchDepth) ∧
      lengthAllowed s.params.maxInsnLen s.prefixes = true ∧ s.regs.ip.toNat + s.prefixes ≤ 2 ^ 16 ∧
      (s.event.isSome = true → s.prefixes = 0) ∧ (s.stopped = true → s.prefixes = 0 ∧ s.event = none) := by
  cases he : s.event <;> cases hs : s.stopped <;> simp [State.wf, he, hs, and_assoc]

theorem lengthAllowed_zero (maxLen : Nat) : lengthAllowed maxLen 0 = true := by simp [lengthAllowed]

theorem lengthAllowed_mono {maxLen m n : Nat} (h : lengthAllowed maxLen n = true) (hmn : m ≤ n) :
    lengthAllowed maxLen m = true := by
  simp only [lengthAllowed, Bool.or_eq_true, decide_eq_true_eq] at h ⊢
  omega

/-- Between instructions only memory, the prefetch queue and the stopped processor matter. -/
theorem wf_of_no_prefixes {s : State} (hmem : s.mem.wf = true) (hp : s.prefixes = 0)
    (hq : s.event = none → s.prefetch.length ≤ s.params.prefetchDepth) (hs : s.stopped = true → s.event = none) :
    s.wf = true := by
  have hip := s.regs.ip.isLt
  exact wf_iff.2 ⟨hmem, by simpa [hp] using hq, by rw [hp]; exact lengthAllowed_zero _, by omega, fun _ => hp,
    fun h => ⟨hp, hs h⟩⟩

/-! ### The invariant along a step -/

theorem wf_sampleInput {s : State} (h : s.wf = true) : (sampleInput s).wf = true := by
  simpa only [wf_iff, sampleInput_mem, sampleInput_event, sampleInput_prefetch, sampleInput_prefixes, sampleInput_params,
    sampleInput_regs, sampleInput_stopped] using h

theorem wf_resetProcessor {s : State} (hmem : s.mem.wf = true) : (resetProcessor s).wf = true :=
  wf_of_no_prefixes hmem rfl (fun _ => Nat.zero_le _) (fun _ => rfl)

theorem wf_scramble {s : State} (hmem : s.mem.wf = true) : (scramble s).wf = true :=
  wf_of_no_prefixes (wf_setBytes hmem _) rfl (fun _ => Nat.zero_le _) (fun _ => rfl)

theorem wf_enterStopped {s : State} (hmem : s.mem.wf = true) : (enterStopped s).wf = true :=
  wf_of_no_prefixes (wf_setBytes hmem _) rfl (fun _ => Nat.zero_le _) (fun _ => rfl)

theorem wf_enterHandler {s : State} (hmem : s.mem.wf = true) : (enterHandler s).wf = true := by
  unfold enterHandler
  split
  · exact wf_scramble hmem
  · exact wf_of_no_prefixes (wf_setBytes hmem _) rfl (fun _ => Nat.zero_le _) (fun _ => rfl)

theorem RecordsOutcome.wf {s t : State} (h : RecordsOutcome s t) (hmem : s.mem.wf = true) (hs : s.stopped = false) :
    t.wf = true :=
  wf_of_no_prefixes (h.mem ▸ hmem) h.prefixes (fun he => absurd h.event (by simp [he]))
    (fun ht => absurd (h.stopped ▸ ht) (by simp [hs]))

/-- The fetch of an instruction has looked at the length with one byte more than the F1H bytes consumed, and at the offset of
that byte, so that F1H may count itself. -/
theorem wf_exec {i : Instr} {s t : State} (hwf : s.wf = true) (he : s.event = none) (hs : s.stopped = false)
    (hf : fetchDecode s = .instr i) (h : exec i s = .next t) (ht : t.event = none) : t.wf = true := by
  obtain ⟨hmem, hq, _, _, _, _⟩ := wf_iff.1 hwf
  obtain ⟨_, h⟩ | ⟨_, h⟩ | ⟨_, rfl⟩ := exec_cases h
  · obtain ⟨_, _, _, _, rfl⟩ | ⟨_, rfl⟩ := execLoadall_cases h
    · exact wf_of_no_prefixes hmem rfl (fun _ => Nat.zero_le _) (fun _ => he)
    · simp at ht
  · obtain rfl | ⟨_, rfl⟩ := execOp0F04_cases h
    · exact wf_enterStopped hmem
    · simp at ht
  · obtain ⟨n, hn, hlen, hip⟩ := fetchDecode_length hf
    have hq := hq he
    exact wf_iff.2 ⟨hmem, fun _ => by simp only; omega, lengthAllowed_mono hlen (by simp only; omega), by simp only; omega,
      fun h => absurd h (by simp [he]), fun h => absurd h (by simp [hs])⟩

theorem length_prefetchAhead (len : Nat) (s : State) : (prefetchAhead len s).length = len + s.params.prefetchDepth := by
  simp [prefetchAhead]

theorem wf_finishStep {s : State} (h : s.wf = true) : (finishStep s).wf = true := by
  obtain ⟨_, hf⟩ | ⟨_, hf⟩ := finishStep_cases s
  · rwa [hf]
  · obtain ⟨hmem, _, hlen, hip, he, hs⟩ := wf_iff.1 h
    rw [hf]
    exact wf_iff.2 ⟨wf_setBytes hmem _, fun _ => (length_prefetchAhead _ _).le, hlen, hip, he, hs⟩

theorem step_keeps_wf {s t : State} (hwf : s.wf = true) (h : step s = .next t) : t.wf = true := by
  obtain ⟨u, rfl, hu⟩ := step_cases h
  have hwf := wf_sampleInput hwf
  have hmem := (wf_iff.1 hwf).1
  apply wf_finishStep
  obtain ⟨_, rfl⟩ | ⟨_, ⟨_, rfl⟩ | ⟨_, _, rfl⟩ | ⟨hs, he, hr | ⟨ht, w, i, hf, hexec⟩⟩⟩ := hu
  · exact wf_resetProcessor hmem
  · exact wf_scramble hmem
  · exact wf_enterHandler hmem
  · exact hr.wf hmem (by simpa using hs)
  · exact wf_exec (s := writeDuringStep w (sampleInput s)) hwf (by simpa using he) (by simpa using hs) hf hexec ht

/-- Settles O26: each way a step can go keeps the invariant. -/
theorem stepKeepsWf : Obligations.StepKeepsWf := fun _ _ => step_keeps_wf

/-- Settles O27: an empty memory, an empty queue, no instruction in progress. -/
theorem resetWf : Obligations.ResetWf := wf_of_no_prefixes wf_reset_mem rfl (fun _ => Nat.zero_le _) (fun _ => rfl)

/-! ### The mode along a step -/

/-- Registers of free values keep bit 0 of MSW where it was set (log 18). -/
theorem mswProtected_freeRegs {n : Nat} {r : Regs} (h : mswProtected r.msw = true) :
    mswProtected (freeRegs n r).msw = true := by
  unfold mswProtected at h ⊢
  simp [freeRegs, h]

theorem scramble_keeps_protected {s : State} (h : s.isProtected = true) : (scramble s).isProtected = true :=
  mswProtected_freeRegs h

theorem enterStopped_keeps_protected {s : State} (h : s.isProtected = true) : (enterStopped s).isProtected = true :=
  mswProtected_freeRegs h

theorem enterHandler_of_protected {s : State} (h : s.isProtected = true) : enterHandler s = scramble s := by
  simp [enterHandler, h]

theorem exec_keeps_protected {i : Instr} {s t : State} (hp : s.isProtected = true) (h : exec i s = .next t) :
    t.isProtected = true := by
  obtain ⟨_, h⟩ | ⟨_, h⟩ | ⟨_, rfl⟩ := exec_cases h
  · exact execLoadall_keeps_protected hp h
  · obtain rfl | ⟨_, rfl⟩ := execOp0F04_cases h
    · exact enterStopped_keeps_protected hp
    · exact hp
  · exact hp

/-- Settles O28: RESET apart, each way a step can go keeps bit 0 of MSW. -/
theorem protectedModeLeftOnlyByReset : Obligations.ProtectedModeLeftOnlyByReset := by
  intro s t h hp hreset
  obtain ⟨u, rfl, hu⟩ := step_cases h
  rw [isProtected_congr (finishStep_regs u)]
  have hp : (sampleInput s).isProtected = true := (isProtected_congr (sampleInput_regs s)).trans hp
  obtain ⟨hr, _⟩ | ⟨_, ⟨_, rfl⟩ | ⟨_, _, rfl⟩ | ⟨_, _, hr | ⟨_, w, i, _, hexec⟩⟩⟩ := hu
  · simp [hreset] at hr
  · exact scramble_keeps_protected hp
  · rw [enterHandler_of_protected hp]; exact scramble_keeps_protected hp
  · exact (isProtected_congr hr.regs).trans hp
  · exact exec_keeps_protected (s := writeDuringStep w (sampleInput s)) hp hexec

end Sys2Proof.Machine
end

section
/-! The step that runs the instruction at CS:IP, and a run over the F1H bytes before it (41_undocumented_opcodes.md R135;
logs 15, 16). -/

namespace Sys2Proof.Machine

/-! ### Fetching an instruction whose bytes are given -/

/-- An encoding is one byte that calls for no second, or two of which the first does. -/
theorem encode_cases (i : Instr) :
    (∃ b, encode i = [b] ∧ needsSecondByte b = false ∧ i.length = 1) ∨
      ∃ b c, encode i = [b, c] ∧ needsSecondByte b = true ∧ i.length = 2 := by
  cases i with
  | opD6 => exact .inl ⟨_, rfl, rfl, rfl⟩
  | pfxF1 => exact .inl ⟨_, rfl, rfl, rfl⟩
  | _ => exact .inr ⟨_, _, rfl, rfl, rfl⟩

theorem decode_encode (i : Instr) : decode (encode i) = .instr i i.length := by
  simpa using decode_encode_append i []

theorem checkLength_of_allowed {i : Instr} {n : Nat} {s : State}
    (h : lengthAllowed s.params.maxInsnLen (s.prefixes + n) = true) : checkLength i n s = .instr i := by
  simp [checkLength, h]

theorem fetchDecode_of_hasInstruction {i : Instr} {s : State} (h : HasInstruction i s) : fetchDecode s = .instr i := by
  obtain ⟨hbytes, hlen⟩ := h
  have hdecode := decode_encode i
  obtain ⟨b, henc, _, _⟩ | ⟨b, c, henc, hsecond, _⟩ := encode_cases i
  · have hb : fetchByte s.prefixes s = .ok b := by simpa [henc] using hbytes 0 (by simp [henc])
    rw [henc] at hdecode
    simp only [fetchDecode, hb, hdecode, checkLength_of_allowed hlen]
  · have hb : fetchByte s.prefixes s = .ok b := by simpa [henc] using hbytes 0 (by simp [henc])
    have hc : fetchByte (s.prefixes + 1) s = .ok c := by simpa [henc] using hbytes 1 (by simp [henc])
    have hmore : decode [b] = .more := by simp [decode, hsecond]
    rw [henc] at hdecode
    simp only [fetchDecode, hb, hc, hmore, decodedTwo, hdecode, checkLength_of_allowed hlen]

theorem runInstruction_of_hasInstruction {i : Instr} {s : State} (h : HasInstruction i s) :
    runInstruction s = exec i s := by
  simp [runInstruction, fetchDecode_of_hasInstruction h]

/-! ### The step at an instruction -/

theorem boundary_of_transfer {s u : State} (h : transferPhase s = .next u) (he : u.event = none) :
    boundary s = interruptOrInstruction u := by
  simp [boundary, h, he]

theorem interruptOrInstruction_of_none {s : State} (h : enabledInterrupt s = none) :
    interruptOrInstruction s = runInstruction s := by
  simp [interruptOrInstruction, h]

/-- With no RESET, no stop and no outcome pending the processor is at a boundary. -/
theorem processorStep_eq_boundary {s : State} (hr : s.now.reset = false) (hs : s.stopped = false) (he : s.event = none) :
    processorStep s = boundary s := by
  simp [processorStep, hr, hs, he]

/-- Settles O25: a transfer that raised nothing has only added to the writes of the step, so that the processor is at the same
boundary before and after it. -/
theorem stepRunsDecodedInstruction : Obligations.StepRunsDecodedInstruction := by
  intro s u i htransfer ⟨hreset, hstopped, hevent, hint⟩ hi
  obtain ⟨w, rfl⟩ := transferPhase_of_no_outcome htransfer hevent
  have hbound : processorStep (sampleInput s) = boundary (sampleInput s) :=
    processorStep_eq_boundary hreset hstopped hevent
  rw [step, hbound, boundary_of_transfer htransfer hevent, interruptOrInstruction_of_none hint,
    runInstruction_of_hasInstruction hi]

/-! ### F1H -/

theorem exec_pfxF1 (s : State) : exec .pfxF1 s = .next { s with prefixes := s.prefixes + 1 } := rfl

/-- Settles O18: F1H counts itself and does no more. -/
theorem f1Completes : Obligations.F1Completes :=
  fun s => ⟨_, exec_pfxF1 s, rfl, rfl, rfl, ⟨rfl, rfl, rfl, rfl⟩, rfl, rfl, fun _ => rfl⟩

theorem requireCpl0_prefixes {code : Word} {body : State → Outcome} {n m : Nat} {s : State}
    (h : body { s with prefixes := n } = body { s with prefixes := m }) :
    requireCpl0 code body { s with prefixes := n } = requireCpl0 code body { s with prefixes := m } := by
  unfold requireCpl0
  rw [h]
  rfl

/-- What follows the F1H bytes does not look at their number. -/
theorem exec_prefixes {i : Instr} (h : i ≠ .pfxF1) (n m : Nat) (s : State) :
    exec i { s with prefixes := n } = exec i { s with prefixes := m } := by
  cases i with
  | loadall => exact requireCpl0_prefixes (body := loadallBody) rfl
  | op0F04 => exact requireCpl0_prefixes (body := fun s => .next (enterStopped s)) rfl
  | pfxF1 => exact absurd rfl h
  | _ => rfl

/-- Settles O19: two numbers of F1H bytes give the same answer, 0 among them. -/
theorem f1ChangesNoInstruction : Obligations.F1ChangesNoInstruction := fun _ n s h => exec_prefixes h n 0 s

/-! ### A run over F1H bytes -/

theorem exec_keeps_now {i : Instr} {s t : State} (h : exec i s = .next t) : t.now = s.now := by
  obtain ⟨_, h⟩ | ⟨_, h⟩ | ⟨_, rfl⟩ := exec_cases h
  · obtain ⟨_, _, _, _, rfl⟩ | ⟨_, rfl⟩ := execLoadall_cases h <;> rfl
  · obtain rfl | ⟨_, rfl⟩ := execOp0F04_cases h <;> rfl
  · rfl

theorem mapNext_eq_self {f : State → State} {o : Outcome} (h : ∀ t, o = .next t → f t = t) : mapNext f o = o := by
  cases o with
  | next t => exact congrArg _ (h t rfl)
  | fault r => rfl
  | refused r => rfl

/-- Nothing comes from the environment, now or later, and the processor is to go on with the instruction at CS:IP. -/
structure Undisturbed (s : State) : Prop where
  inputs : s.inputs = []
  now : s.now = Input.quiet
  stopped : s.stopped = false
  event : s.event = none

theorem Undisturbed.sampleInput {s : State} (h : Undisturbed s) : sampleInput s = s := by
  rw [sampleInput_quiet h.inputs, ← h.now]

theorem Undisturbed.atInstruction {s : State} (h : Undisturbed s) : AtInstruction s := by
  simp [AtInstruction, enabledInterrupt, h.now, h.stopped, h.event, Input.quiet]

theorem Undisturbed.no_writes {s : State} (h : Undisturbed s) : s.now.writes = [] := by simp [h.now, Input.quiet]

theorem Undisturbed.step_eq_exec {i : Instr} {s : State} (h : Undisturbed s) (hi : HasInstruction i s) :
    step s = exec i s := by
  have htransfer : transferPhase (Machine.sampleInput s) = .next s := by
    rw [h.sampleInput]; exact transferPhase_of_no_transfer (by simp [h.now, Input.quiet])
  rw [stepRunsDecodedInstruction s s i htransfer h.atInstruction hi]
  apply mapNext_eq_self
  intro t ht
  exact finishStep_of_quiet (by rw [exec_keeps_now ht, h.no_writes])

/-- The bytes from the offset IP + `k` on are those of a list. -/
def BytesFrom (k : Nat) (bs : List Byte) (s : State) : Prop :=
  ∀ j (h : j < bs.length), fetchByte (k + j) s = .ok bs[j]

theorem bytesFrom_cons {k : Nat} {b : Byte} {bs : List Byte} {s : State} (h : BytesFrom k (b :: bs) s) :
    fetchByte k s = .ok b ∧ BytesFrom (k + 1) bs s := by
  refine ⟨h 0 (by simp), fun j hj => ?_⟩
  rw [Nat.add_assoc, Nat.add_comm 1 j]
  exact h (j + 1) (by simpa using hj)

theorem encodePrefixed_succ (n : Nat) (i : Instr) :
    encodePrefixed { f1s := n + 1, instr := i } = 0xF1 :: encodePrefixed { f1s := n, instr := i } := rfl

/-- `core.run` with the machine's own names for its state and answers. -/
def runSteps (n : Nat) (s : State) : Outcome := Sys2Proof.core.run n s

theorem runSteps_succ (n : Nat) (s : State) : runSteps (n + 1) s = andThen (step s) (runSteps n) := by
  cases h : step s with
  | next t =>
    have hcore : Sys2Proof.core.step s = .next t := h
    simp only [runSteps, Host.Core.run, hcore, andThen]
    rfl
  | fault r =>
    have hcore : Sys2Proof.core.step s = .fault r := h
    simp only [runSteps, Host.Core.run, hcore, andThen]
    rfl
  | refused r =>
    have hcore : Sys2Proof.core.step s = .refused r := h
    simp only [runSteps, Host.Core.run, hcore, andThen]
    rfl

theorem runSteps_one (s : State) : runSteps 1 s = step s := by
  rw [runSteps_succ]
  cases step s <;> rfl

/-- By induction on the F1H bytes still to come: each takes a step that counts it, and `exec` does not look at the count. -/
theorem runSteps_prefixed {i : Instr} (hi : i ≠ .pfxF1) (n : Nat) : ∀ s : State, Undisturbed s →
    lengthAllowed s.params.maxInsnLen (s.prefixes + n + i.length) = true →
    BytesFrom s.prefixes (encodePrefixed { f1s := n, instr := i }) s →
      runSteps (n + 1) s = exec i s := by
  induction n with
  | zero =>
    intro s hs hlen hbytes
    exact (runSteps_one s).trans (hs.step_eq_exec ⟨hbytes, hlen⟩)
  | succ n ih =>
    intro s hs hlen hbytes
    rw [encodePrefixed_succ] at hbytes
    obtain ⟨hfirst, hrest⟩ := bytesFrom_cons hbytes
    have hf1 : HasInstruction .pfxF1 s := by
      refine ⟨fun j hj => ?_, lengthAllowed_mono hlen (by simp only [Instr.length]; omega)⟩
      obtain rfl : j = 0 := by simpa [encode] using hj
      exact hfirst
    have hstep : step s = .next { s with prefixes := s.prefixes + 1 } :=
      (hs.step_eq_exec hf1).trans (exec_pfxF1 s)
    calc runSteps (n + 1 + 1) s
        = runSteps (n + 1) { s with prefixes := s.prefixes + 1 } := by rw [runSteps_succ, hstep, andThen_next]
      _ = exec i { s with prefixes := s.prefixes + 1 } :=
          ih _ ⟨hs.inputs, hs.now, hs.stopped, hs.event⟩ (by rw [← hlen]; congr 1; simp only; omega) hrest
      _ = exec i s := exec_prefixes hi _ s.prefixes s

/-- Settles O20: a run over F1H bytes, from a state in which none is consumed. -/
theorem prefixedInstructionRuns : Obligations.PrefixedInstructionRuns := by
  intro n i s hinputs hnow hstopped hevent hzero hwf hbytes
  simp only [PrefixedInstr.wellFormed, Bool.and_eq_true] at hwf
  obtain ⟨hi, hlen⟩ := hwf
  refine runSteps_prefixed ?_ n s ⟨hinputs, hnow, hstopped, hevent⟩ (by rwa [hzero, Nat.zero_add]) ?_
  · rintro rfl
    simp [Instr.isPrefix] at hi
  · intro j hj
    rw [hzero, Nat.zero_add]
    exact hbytes j hj

end Sys2Proof.Machine
end

section
/-! The steps in which no instruction runs, or in which the environment acts: RESET (70_reset_and_hazards.md R270 to R272), a
stopped processor (10_state.md R29), the handler of an outcome, an external interrupt, and a fetch that fails. -/

namespace Sys2Proof.Machine

/-! ### RESET -/

theorem processorStep_reset {s : State} (h : s.now.reset = true) : processorStep s = .next (resetProcessor s) := by
  simp [processorStep, h]

theorem step_reset {s : State} (h : (sampleInput s).now.reset = true) :
    step s = .next (finishStep (resetProcessor (sampleInput s))) := by
  rw [step, processorStep_reset h, mapNext_next]

/-- The mask FFFEH clears bit 0 and keeps the others. -/
theorem getLsbD_and_FFFE (m : Word) (k : Nat) : (m &&& 0xFFFE).getLsbD k = (m.getLsbD k && decide (0 < k)) := by
  by_cases hk : k < 16
  · have hmask : ∀ j : Fin 16, (0xFFFE : Word).getLsbD j = decide (0 < j.val) := by decide
    rw [BitVec.getLsbD_and, hmask ⟨k, hk⟩]
  · have hk : 16 ≤ k := by omega
    rw [BitVec.getLsbD_of_ge _ k hk, BitVec.getLsbD_of_ge m k hk, Bool.false_and]

theorem mswProtected_and_FFFE (m : Word) : mswProtected (m &&& 0xFFFE) = false := by
  rw [mswProtected, getLsbD_and_FFFE]
  simp

/-- Settles O30: `resetProcessor` on the sampled state, where nothing remains to be written. -/
theorem resetTakesEffect : Obligations.ResetTakesEffect := by
  intro s hreset hquiet
  have hstep : step s = .next (resetProcessor (sampleInput s)) := by
    rw [step_reset hreset, finishStep_of_quiet (by simpa using hquiet)]
  have hregs : (resetProcessor (sampleInput s)).regs = s.params.resetRegs := by simp
  refine ⟨_, hstep, mswProtected_and_FFFE _, rfl, rfl, rfl, rfl, by rw [hregs]; rfl, fun k hk => ?_, by simp⟩
  rw [hregs]
  exact (getLsbD_and_FFFE _ k).trans (by simp [hk])

/-- Settles O31: the mask of MSW decides the mode, and no address is listed. -/
theorem resetState : Obligations.ResetState := ⟨mswProtected_and_FFFE _, rfl, rfl, fun _ => rfl⟩

/-! ### A stopped processor -/

theorem step_stopped {s : State} (hr : (sampleInput s).now.reset = false) (hs : s.stopped = true) :
    step s = .next (finishStep (idleStopped (sampleInput s))) := by
  simp [step, processorStep, hr, hs]

/-- Settles O17: by the RESET pin of the sampled input. -/
theorem onlyResetLeavesStopped : Obligations.OnlyResetLeavesStopped := by
  intro s hs
  cases hr : (sampleInput s).now.reset with
  | true => exact ⟨_, step_reset hr, by simp⟩
  | false => exact ⟨_, step_stopped hr hs, by simp [idleStopped, hs]⟩

/-! ### The handler of an outcome -/

theorem step_handler {s : State} (hr : (sampleInput s).now.reset = false) (hs : s.stopped = false)
    (he : s.event.isSome = true) : step s = .next (finishStep (enterHandler (sampleInput s))) := by
  simp [step, processorStep, hr, hs, he]

theorem enterHandler_of_real {s : State} (h : s.isProtected = false) :
    enterHandler s = { scramble s with
      regs := { (scramble s).regs with
        msw := (scramble s).regs.msw &&& 0xFFFE, csCache := realCache (scramble s).regs.cs } } := by
  simp [enterHandler, h]

theorem enterHandler_now (s : State) : (enterHandler s).now = s.now := by
  unfold enterHandler
  split <;> rfl

/-- Settles O34: in protected mode the handler finds what `scramble` leaves, in real mode CS is loaded besides. -/
theorem outcomeIsHandedOver : Obligations.OutcomeIsHandedOver := by
  intro s hr hquiet hs he
  have hstep : step s = .next (enterHandler (sampleInput s)) := by
    rw [step_handler hr hs he, finishStep_of_quiet (by rw [enterHandler_now, hquiet])]
  have hmode : (sampleInput s).isProtected = s.isProtected := isProtected_congr (sampleInput_regs s)
  refine ⟨_, hstep, ?_⟩
  cases hp : s.isProtected with
  | true =>
    rw [hp] at hmode
    rw [enterHandler_of_protected hmode]
    exact ⟨rfl, rfl, rfl, scramble_keeps_protected hmode, by simp⟩
  | false =>
    rw [hp] at hmode
    rw [enterHandler_of_real hmode]
    exact ⟨rfl, rfl, rfl, mswProtected_and_FFFE _, fun _ => ⟨realCache_base _, rfl⟩⟩

/-! ### An external interrupt -/

theorem enabledInterrupt_of_flag {s : State} (hf : flagIf s.regs.flags = true) (hp : s.prefixes = 0) :
    enabledInterrupt s = s.now.interrupt := by
  simp [enabledInterrupt, hf, hp]

/-- An interrupt against an instruction that raises nothing is taken, at the state before the instruction. -/
theorem interruptFirst_of_no_outcome {v : Byte} {s : State} {o : Outcome} (h : ∀ t, o = .next t → t.event = none) :
    ∃ d, interruptFirst v s o = .next (takeInterrupt v { s with draws := d }) := by
  cases o with
  | next t => exact ⟨t.draws + 1, by simp [interruptFirst, h t rfl]⟩
  | fault r => exact ⟨s.draws, rfl⟩
  | refused r => exact ⟨s.draws, rfl⟩

/-- Settles O32: the interrupt is enabled and comes first against an instruction that raises nothing. -/
theorem interruptTaken : Obligations.InterruptTaken := by
  intro s v hr hs he hp htransfer hquiet hint hif hrun
  have henabled : enabledInterrupt (sampleInput s) = some v := by
    rw [enabledInterrupt_of_flag (by rw [sampleInput_regs]; exact hif) (by simpa using hp), hint]
  obtain ⟨d, hfirst⟩ := interruptFirst_of_no_outcome (v := v) (s := sampleInput s) hrun
  have hproc : processorStep (sampleInput s) = .next (takeInterrupt v { sampleInput s with draws := d }) := by
    rw [processorStep_eq_boundary hr (by simpa using hs) (by simpa using he),
      boundary_of_transfer (transferPhase_of_no_transfer htransfer) (by simpa using he), interruptOrInstruction, henabled]
    exact hfirst
  have hstep : step s = .next (takeInterrupt v { sampleInput s with draws := d }) := by
    rw [step, hproc, mapNext_next, finishStep_of_quiet (by simpa using hquiet)]
  exact ⟨_, hstep, by simp, by simp, by simpa using hs, by simp, rfl, ⟨rfl, rfl, rfl, rfl⟩, by simp⟩

/-! ### A fetch that fails -/

theorem raise_exception13_zero (s : State) : raise (.exception 13 zeroCode) s = .next (excepted 13 (some 0) s) := rfl

/-- An offset beyond the limit of an expand-up cache, valid or not, raises exception 13 with error code 0. -/
theorem fetchByte_beyond {k : Nat} {s : State} (hd : s.regs.csCache.expandDown = false)
    (hl : s.regs.csCache.limit.toNat < s.regs.ip.toNat + k) : fetchByte k s = .error (.exception 13 zeroCode) := by
  cases hv : s.regs.csCache.valid with
  | false => exact fetchByte_invalid hv
  | true => exact fetchByte_limit hv (by simp only [Cache.withinLimit, hd]; simp; omega)

theorem fetchByte_sampleInput (k : Nat) (s : State) : fetchByte k (sampleInput s) = fetchByte k s :=
  fetchByte_congr (by simp) (by simp) (by simp) (by simp)

/-- Settles O35: in each case the fetch of one of the two bytes fails. -/
theorem fetchRaisesException : Obligations.FetchRaisesException := by
  intro s ⟨hr, hs, he, hint⟩ htransfer hquiet hcase
  have hrun : runInstruction (sampleInput s) = .next (excepted 13 (some 0) (sampleInput s)) := by
    rw [← raise_exception13_zero]
    obtain hinvalid | ⟨hd, hfirst | ⟨⟨b, hb, hsecond⟩, hl⟩⟩ := hcase
    · exact runInstruction_of_fetch_error (fetchByte_invalid (by simpa using hinvalid))
    · exact runInstruction_of_fetch_error (fetchByte_beyond (by simpa using hd) (by simpa using hfirst))
    · refine runInstruction_of_second_fetch_error (b := b) ?_ hsecond
        (fetchByte_beyond (by simpa using hd) (by simpa [Nat.add_assoc] using hl))
      rw [sampleInput_prefixes, fetchByte_sampleInput, hb]
  rw [step, processorStep_instruction hr hs he htransfer hint, hrun, mapNext_next]
  exact congrArg _ (finishStep_of_quiet hquiet)

/-! ### The caches along a step -/

/-- Settles O37: an outcome leaves every register, and of the instructions LOADALL, 0F04H and F1H alone have a next state. -/
theorem cachesChangeOnlyAsListed : Obligations.CachesChangeOnlyAsListed := by
  intro s t h hreset hstopped hevent hloadall hop0F04
  have hregs : t.regs = s.regs := by
    obtain ⟨u, rfl, hu⟩ := step_cases h
    rw [finishStep_regs, ← sampleInput_regs s]
    obtain ⟨hr, _⟩ | ⟨_, ⟨hs, _⟩ | ⟨_, he, _⟩ | ⟨_, _, hr | ⟨_, w, i, hfetch, hexec⟩⟩⟩ := hu
    · simp [hreset] at hr
    · simp [hstopped] at hs
    · simp [hevent] at he
    · exact hr.regs
    · obtain ⟨rfl, _⟩ | ⟨rfl, _⟩ | ⟨_, rfl⟩ := exec_cases hexec
      · exact absurd hfetch hloadall
      · exact absurd hfetch hop0F04
      · rfl
  rw [hregs]
  exact ⟨fun _ => rfl, rfl, rfl, rfl, rfl⟩

end Sys2Proof.Machine
end

section
/-! A step with IF clear does not look at the pending external interrupt (60_exceptions.md R242): each function of the step
commutes with taking it from the current input. -/

namespace Sys2Proof.Machine

/-- The state with no external interrupt in its current input. -/
def withoutInterrupt (s : State) : State := { s with now := { s.now with interrupt := none } }

/-- An operation that an external interrupt takes no part in. -/
def IgnoresInterrupt (f : State → Outcome) : Prop := ∀ s, f (withoutInterrupt s) = mapNext withoutInterrupt (f s)

/-! ### Sampling -/

theorem pxResetPin_withoutInterrupt (s : State) :
    pxResetPin (withoutInterrupt s) = withoutInterrupt (pxResetPin s) := by
  have hpin : (withoutInterrupt s).now.pxReset = s.now.pxReset := rfl
  rw [pxResetPin, pxResetPin, hpin]
  split <;> rfl

theorem admitTransfer_withoutInterrupt (s : State) :
    admitTransfer (withoutInterrupt s) = withoutInterrupt (admitTransfer s) := by
  have htransfer : (withoutInterrupt s).now.transfer = s.now.transfer := rfl
  have hbusy : (withoutInterrupt s).px.busy = s.px.busy := rfl
  unfold admitTransfer
  rw [htransfer, hbusy]
  split
  · rfl
  · split <;> rfl

theorem nextInput_cons {s : State} {i : Input} {rest : List Input} (h : s.inputs = i :: rest) :
    nextInput s = { s with now := i, inputs := rest } := by
  simp [nextInput, h]

/-- Sampling an input without its interrupt is sampling it and forgetting the interrupt. -/
theorem sampleInput_masked {s : State} {i : Input} {rest : List Input} (h : s.inputs = i :: rest) :
    sampleInput { s with inputs := { i with interrupt := none } :: rest } = withoutInterrupt (sampleInput s) := by
  have hnext : nextInput { s with inputs := { i with interrupt := none } :: rest } = withoutInterrupt (nextInput s) := by
    rw [nextInput_cons h]
    rfl
  rw [sampleInput, hnext, pxResetPin_withoutInterrupt]
  exact admitTransfer_withoutInterrupt (pxProgress (pxResetPin (nextInput s)))

/-! ### The instruction -/

theorem raise_ignoresInterrupt (st : Stop) : IgnoresInterrupt (raise st) := by
  intro s
  cases st <;> rfl

theorem requireCpl0_ignoresInterrupt {code : Word} {body : State → Outcome} (h : IgnoresInterrupt body) :
    IgnoresInterrupt (requireCpl0 code body) := by
  intro s
  have hp : (withoutInterrupt s).isProtected = s.isProtected := rfl
  have hask : (withoutInterrupt s).askCpl (· == 0) = s.askCpl (· == 0) := rfl
  unfold requireCpl0
  rw [hp, hask, h s]
  split
  · split <;> rfl
  · rfl

theorem loadallBody_ignoresInterrupt : IgnoresInterrupt loadallBody := by
  intro s
  have hp : (withoutInterrupt s).isProtected = s.isProtected := rfl
  have hword : areaWord 0x06 (withoutInterrupt s) = areaWord 0x06 s := rfl
  have hbyte : ∀ k, areaByte k (withoutInterrupt s) = areaByte k s := fun _ => rfl
  unfold loadallBody
  rw [hp, hword, hbyte, hbyte]
  split
  · rfl
  · split <;> rfl

theorem shiftReg6_ignoresInterrupt (group : BitVec 3 → Target) : IgnoresInterrupt (shiftReg6 group) := by
  intro s
  have hparams : (withoutInterrupt s).params = s.params := rfl
  unfold shiftReg6
  rw [hparams]
  split <;> rfl

theorem exec_ignoresInterrupt (i : Instr) : IgnoresInterrupt (exec i) := by
  intro s
  cases i with
  | loadall => exact requireCpl0_ignoresInterrupt loadallBody_ignoresInterrupt s
  | op0F04 => exact requireCpl0_ignoresInterrupt (body := fun s => .next (enterStopped s)) (fun _ => rfl) s
  | shiftD0Reg6 m r => exact shiftReg6_ignoresInterrupt .shiftD0 s
  | shiftD1Reg6 m r => exact shiftReg6_ignoresInterrupt .shiftD1 s
  | _ => rfl

theorem runInstruction_ignoresInterrupt : IgnoresInterrupt runInstruction := by
  intro s
  have hfetch : fetchDecode (withoutInterrupt s) = fetchDecode s := rfl
  unfold runInstruction
  rw [hfetch]
  split
  · exact exec_ignoresInterrupt _ s
  · exact raise_ignoresInterrupt _ s

/-! ### The boundary and the step -/

theorem transferOp_ignoresInterrupt (p : PxTransfer) : IgnoresInterrupt (transferOp p) := by
  intro s
  have haddr : segAccess p.seg p.off 2 p.kind true (withoutInterrupt s) = segAccess p.seg p.off 2 p.kind true s := rfl
  unfold transferOp
  rw [haddr]
  split
  · split <;> rfl
  · split
    · rfl
    · exact raise_ignoresInterrupt _ s

theorem transferPhase_ignoresInterrupt : IgnoresInterrupt transferPhase := by
  intro s
  have htransfer : (withoutInterrupt s).now.transfer = s.now.transfer := rfl
  unfold transferPhase
  rw [htransfer]
  split
  · rfl
  · exact transferOp_ignoresInterrupt _ s

theorem enabledInterrupt_of_masked {s : State} (h : flagIf s.regs.flags = false) : enabledInterrupt s = none := by
  simp [enabledInterrupt, h]

theorem transferPhase_keeps_regs {s u : State} (h : transferPhase s = .next u) : u.regs = s.regs := by
  obtain ⟨_, rfl⟩ | hr := transferPhase_cases h
  · rfl
  · exact hr.regs

/-- With IF clear the boundary is the transfer and the instruction. -/
theorem boundary_masked {s : State} (h : flagIf s.regs.flags = false) :
    boundary (withoutInterrupt s) = mapNext withoutInterrupt (boundary s) := by
  unfold boundary
  rw [transferPhase_ignoresInterrupt s]
  cases ht : transferPhase s with
  | fault r => rfl
  | refused r => rfl
  | next u =>
    have hu : flagIf u.regs.flags = false := by rw [transferPhase_keeps_regs ht, h]
    have hevent : (withoutInterrupt u).event = u.event := rfl
    simp only [mapNext_next, andThen_next, hevent]
    split
    · rfl
    · rw [interruptOrInstruction_of_none (enabledInterrupt_of_masked hu),
        interruptOrInstruction_of_none (enabledInterrupt_of_masked (s := withoutInterrupt u) hu)]
      exact runInstruction_ignoresInterrupt u

theorem enterHandler_withoutInterrupt (s : State) :
    enterHandler (withoutInterrupt s) = withoutInterrupt (enterHandler s) := by
  have hp : (withoutInterrupt s).isProtected = s.isProtected := rfl
  unfold enterHandler
  simp only [hp]
  split <;> rfl

theorem processorStep_masked {s : State} (h : flagIf s.regs.flags = false) :
    processorStep (withoutInterrupt s) = mapNext withoutInterrupt (processorStep s) := by
  have hreset : (withoutInterrupt s).now.reset = s.now.reset := rfl
  have hstopped : (withoutInterrupt s).stopped = s.stopped := rfl
  have hevent : (withoutInterrupt s).event = s.event := rfl
  unfold processorStep
  rw [hreset, hstopped, hevent]
  split
  · rfl
  · split
    · rfl
    · split
      · exact congrArg _ (enterHandler_withoutInterrupt s)
      · exact boundary_masked h

theorem finishStep_withoutInterrupt (s : State) :
    finishStep (withoutInterrupt s) = withoutInterrupt (finishStep s) := by
  have hwrites : (withoutInterrupt s).now.writes = s.now.writes := rfl
  unfold finishStep
  rw [hwrites]
  split <;> rfl

/-- Settles O33: the step without the interrupt is the step with it, the recorded input apart. -/
theorem interruptMasked : Obligations.InterruptMasked := by
  intro s i rest hinputs hif
  have hflag : flagIf (sampleInput s).regs.flags = false := by rw [sampleInput_regs]; exact hif
  rw [step, step, sampleInput_masked hinputs, processorStep_masked hflag]
  cases processorStep (sampleInput s) with
  | next t =>
    simp only [mapNext_next, finishStep_withoutInterrupt]
    rfl
  | fault r => rfl
  | refused r => rfl

end Sys2Proof.Machine
end

section
/-! Instruction bytes after a store (20_memory.md R68; log 14). -/

namespace Sys2Proof.Machine

theorem fetchAddr_storeMem (k len : Nat) (f : Memory → Memory) (s : State) :
    fetchAddr k (storeMem len f s) = fetchAddr k s := fetchAddr_congr rfl rfl

/-- With nothing prefetched at an offset the byte is memory's. -/
theorem fetchByte_of_not_prefetched {k : Nat} {s : State} {a : Addr} (ha : fetchAddr k s = .ok a)
    (hq : s.prefetch[k]?.join = none) : fetchByte k s = .ok (s.mem.byte a) := by
  simp [fetchByte, ha, hq]

theorem fetchByte_of_prefetched {k : Nat} {s : State} {a : Addr} {b : Byte} (ha : fetchAddr k s = .ok a)
    (hq : s.prefetch[k]?.join = some b) : fetchByte k s = .ok b := by
  simp [fetchByte, ha, hq]

theorem prefetchAhead_of_lt {k len : Nat} {s : State} (h : k < len + s.params.prefetchDepth) :
    (prefetchAhead len s)[k]?.join = prefetchEntry s k := by
  simp [prefetchAhead, h]

theorem prefetchAhead_of_ge {k len : Nat} {s : State} (h : len + s.params.prefetchDepth ≤ k) :
    (prefetchAhead len s)[k]?.join = none := by
  have hout : (prefetchAhead len s)[k]? = none := by simpa [prefetchAhead] using h
  rw [hout]
  rfl

/-- What may be prefetched at an offset is the byte that a fetch would have read. -/
theorem fetchByte_of_prefetchEntry {k : Nat} {s : State} {a : Addr} {b : Byte} (ha : fetchAddr k s = .ok a)
    (h : prefetchEntry s k = some b) : fetchByte k s = .ok b := by
  unfold prefetchEntry at h
  split at h
  · next c hc => cases h; exact fetchByte_of_prefetched ha hc
  · next hnone =>
    split at h
    · rw [fetchByte_of_not_prefetched ha hnone] at h ⊢
      exact congrArg _ (Option.some.inj h)
    · cases h

theorem fetchByte_storeMem_of_ge {k len : Nat} {f : Memory → Memory} {s : State} {a : Addr} (ha : fetchAddr k s = .ok a)
    (h : len + s.params.prefetchDepth ≤ k) : fetchByte k (storeMem len f s) = .ok ((f s.mem).byte a) :=
  fetchByte_of_not_prefetched (s := storeMem len f s) ((fetchAddr_storeMem k len f s).trans ha) (prefetchAhead_of_ge h)

theorem fetchByte_storeMem_cases {k : Nat} (len : Nat) (f : Memory → Memory) {s : State} {a : Addr}
    (ha : fetchAddr k s = .ok a) :
    fetchByte k (storeMem len f s) = fetchByte k s ∨ fetchByte k (storeMem len f s) = .ok ((f s.mem).byte a) := by
  by_cases hk : k < len + s.params.prefetchDepth
  · have ha' : fetchAddr k (storeMem len f s) = .ok a := (fetchAddr_storeMem k len f s).trans ha
    have hentry : (storeMem len f s).prefetch[k]?.join = prefetchEntry s k := prefetchAhead_of_lt hk
    cases he : prefetchEntry s k with
    | some b =>
      left
      rw [fetchByte_of_prefetchEntry ha he]
      exact fetchByte_of_prefetched ha' (hentry.trans he)
    | none => exact .inr (fetchByte_of_not_prefetched ha' (hentry.trans he))
  · exact .inr (fetchByte_storeMem_of_ge ha (by omega))

/-- With nothing prefetched every byte is memory's. -/
theorem fetchByte_of_prefetch_nil {j : Nat} {s : State} {b : Addr} (hq : s.prefetch = []) (hb : fetchAddr j s = .ok b) :
    fetchByte j s = .ok (s.mem.byte b) :=
  fetchByte_of_not_prefetched hb (by simp [hq])

/-- Settles O36: by the entry of the queue at the offset; a jump and a far transfer empty the queue and keep memory. -/
theorem prefetchOldOrNew : Obligations.PrefetchOldOrNew := by
  intro len f s k a ha
  refine ⟨fetchByte_storeMem_cases len f ha, fetchByte_storeMem_of_ge ha, fun target => ?jump,
    fun cs d target u hfar _ hu => ?far⟩
  case jump => exact ⟨_, rfl, rfl, fun j b hb => fetchByte_of_prefetch_nil rfl hb⟩
  case far =>
    obtain ⟨_, rfl⟩ | ⟨c, n, rfl⟩ := loadSeg_cases hfar
    · exact absurd hu (by simp [protectionException])
    · exact ⟨rfl, fun j b hb => fetchByte_of_prefetch_nil rfl hb⟩

end Sys2Proof.Machine
end

section
/-! LOADALL: the words of the area in the registers (40_loadall.md R104 to R107, R120), its privilege rule (R102), its
requirements (R107, R110), what it leaves alone, and the step after it (R113, R119). -/

namespace Sys2Proof.Machine

/-! ### The bytes and words of the area -/

theorem areaByte_of_even {k : Nat} (h : k % 2 = 0) (s : State) : areaByte k s = (areaWord k s).extractLsb' 0 8 := by
  simp [areaByte, h]

theorem areaByte_succ_of_even {k : Nat} (h : k % 2 = 0) (s : State) :
    areaByte (k + 1) s = (areaWord k s).extractLsb' 8 8 := by
  simp [areaByte, show ¬ (k + 1) % 2 = 0 by omega]

/-- The two bytes of a word put together again. -/
theorem high_append_low (w : Word) : (w.extractLsb' 8 8 ++ w.extractLsb' 0 8 : BitVec (8 + 8)) = w := by
  apply BitVec.eq_of_getLsbD_eq
  intro j hj
  rw [BitVec.getLsbD_append]
  by_cases h8 : j < 8
  · simp [h8]
  · simp [h8, show 8 + (j - 8) = j by omega, show j - 8 < 8 by omega]

/-- A byte above the two bytes of a word. -/
theorem append_high_low (b : Byte) (w : Word) :
    (b ++ w.extractLsb' 8 8 ++ w.extractLsb' 0 8 : BitVec (8 + 8 + 8)) = (b ++ w : BitVec (8 + 16)) := by
  have h : (b ++ w.extractLsb' 8 8 ++ w.extractLsb' 0 8 : BitVec (8 + 8 + 8)) =
      (b ++ (w.extractLsb' 8 8 ++ w.extractLsb' 0 8 : BitVec (8 + 8)) : BitVec (8 + (8 + 8))) := by
    apply BitVec.eq_of_getLsbD_eq
    intro j _
    simp only [BitVec.getLsbD_append]
    by_cases h8 : j < 8
    · simp [h8, show j < 16 by omega]
    · by_cases h16 : j < 16
      · simp [h8, h16, show j - 8 < 8 by omega]
      · simp [h8, h16, show ¬ j - 8 < 8 by omega, show j - 8 - 8 = j - 16 by omega]
  rw [h, high_append_low]

/-- The three words of an entry of a descriptor cache: base, access byte and limit. -/
theorem areaCache_of_even {k : Nat} (h : k % 2 = 0) (s : State) :
    areaCache k s =
      { base := (areaWord (k + 2) s).extractLsb' 0 8 ++ areaWord k s
        access := (areaWord (k + 2) s).extractLsb' 8 8
        limit := areaWord (k + 4) s } := by
  have h2 : (k + 2) % 2 = 0 := by omega
  have h4 : (k + 4) % 2 = 0 := by omega
  rw [areaCache, areaByte_of_even h, areaByte_succ_of_even h, areaByte_of_even h2, areaByte_succ_of_even h2,
    areaByte_of_even h4, areaByte_succ_of_even h4]
  exact congrArg₂ (fun b l => Cache.mk b _ l) (append_high_low _ _) (high_append_low _)

theorem areaTableReg_of_even {k : Nat} (h : k % 2 = 0) (s : State) :
    areaTableReg k s =
      { base := (areaWord (k + 2) s).extractLsb' 0 8 ++ areaWord k s, limit := areaWord (k + 4) s } := by
  have h2 : (k + 2) % 2 = 0 := by omega
  have h4 : (k + 4) % 2 = 0 := by omega
  rw [areaTableReg, areaByte_of_even h, areaByte_succ_of_even h, areaByte_of_even h2, areaByte_of_even h4,
    areaByte_succ_of_even h4]
  exact congrArg₂ TableReg.mk (append_high_low _ _) (high_append_low _)

/-! ### The registers it loads where no other bus master writes -/

/-- Addition of an offset within the area to the address of an entry. -/
theorem areaAddr_add (k d : Nat) :
    Config.areaBase + BitVec.ofNat 24 (k + d) = Config.areaBase + BitVec.ofNat 24 k + BitVec.ofNat 24 d := by
  rw [BitVec.ofNat_add, BitVec.add_assoc]

theorem areaCache_quiet {s : State} (hquiet : s.now.writes = []) {k : Nat} (hk : k + 5 < Config.areaLength) :
    areaCache k s = imageCache s.mem (Config.areaBase + BitVec.ofNat 24 k) := by
  rw [areaCache, areaByte_quiet hquiet (by omega), areaByte_quiet hquiet (by omega), areaByte_quiet hquiet (by omega),
    areaByte_quiet hquiet (by omega), areaByte_quiet hquiet (by omega), areaByte_quiet hquiet (by omega)]
  simp only [areaAddr_add]
  rfl

theorem areaTableReg_quiet {s : State} (hquiet : s.now.writes = []) {k : Nat} (hk : k + 5 < Config.areaLength) :
    areaTableReg k s = imageTable s.mem (Config.areaBase + BitVec.ofNat 24 k) := by
  rw [areaTableReg, areaByte_quiet hquiet (by omega), areaByte_quiet hquiet (by omega), areaByte_quiet hquiet (by omega),
    areaByte_quiet hquiet (by omega), areaByte_quiet hquiet (by omega)]
  simp only [areaAddr_add]
  rfl

/-- MSW apart, LOADALL loads the table of R104. -/
theorem loadedRegs_quiet {s : State} (hquiet : s.now.writes = []) :
    loadedRegs s = { imageRegs s.mem with msw := loadedMsw s } := by
  have hcache : ∀ {k}, k + 5 < 102 → areaCache k s = imageCache s.mem (Config.areaBase + BitVec.ofNat 24 k) :=
    areaCache_quiet hquiet
  have htable : ∀ {k}, k + 5 < 102 → areaTableReg k s = imageTable s.mem (Config.areaBase + BitVec.ofNat 24 k) :=
    areaTableReg_quiet hquiet
  unfold loadedRegs
  simp only [areaWord_quiet hquiet]
  rw [hcache (k := 0x36) (by decide), hcache (k := 0x3C) (by decide), hcache (k := 0x42) (by decide),
    hcache (k := 0x48) (by decide), hcache (k := 0x54) (by decide), hcache (k := 0x60) (by decide),
    htable (k := 0x4E) (by decide), htable (k := 0x5A) (by decide)]
  rfl

theorem loadedRegs_of_noErratum {s : State} (hquiet : s.now.writes = []) (herr : NoErratum s) :
    loadedRegs s = imageRegs s.mem := by
  rw [loadedRegs_quiet hquiet, loadedMsw_of_noErratum hquiet herr]
  rfl

/-- The state that a LOADALL leaves which completes. -/
def loaded (s : State) : State :=
  { s with regs := loadedRegs s, prefetch := [], prefixes := 0, draws := s.draws + loadallDraws }

theorem exec_loadall_completes {s : State} (hmay : mayExecuteLoadall s = true) (harea : areaOk s = true) :
    exec .loadall s = .next (loaded s) := execLoadall_completes hmay harea

theorem exec_loadall_of_imageOk {s : State} (hquiet : s.now.writes = []) (hmay : mayExecuteLoadall s = true)
    (himage : ImageOk s) : exec .loadall s = .next (loaded s) :=
  exec_loadall_completes hmay ((areaOk_iff_imageOk hquiet).mpr himage)

/-- An area that breaks a requirement is refused. -/
theorem loadallBody_of_not_areaOk {s : State} (h : areaOk s = false) : ∃ r, loadallBody s = .refused r := by
  unfold loadallBody
  split
  · exact ⟨_, rfl⟩
  · next hmode =>
    split
    · exact ⟨_, rfl⟩
    · next hbytes =>
      simp only [Bool.or_eq_true, bne_iff_ne, ne_eq, not_or, not_not] at hbytes
      have harea : areaOk s = true := areaOk_iff.mpr ⟨by simpa using hmode, hbytes⟩
      simp [h] at harea

/-- LOADALL that has a next state has completed, or has recorded exception 13. -/
theorem exec_loadall_cases {s t : State} (h : exec .loadall s = .next t) :
    (mayExecuteLoadall s = true ∧ areaOk s = true ∧ t = loaded s) ∨
      (s.isProtected = true ∧ mayExecuteLoadall s = false ∧ t = excepted 13 (some 0) s) := by
  cases hmay : mayExecuteLoadall s with
  | true =>
    cases harea : areaOk s with
    | true => rw [exec_loadall_completes hmay harea] at h; cases h; exact .inl ⟨rfl, rfl, rfl⟩
    | false =>
      obtain ⟨r, hbody⟩ := loadallBody_of_not_areaOk harea
      rw [exec_loadall, execLoadall, requireCpl0_of_mayExecuteLoadall hmay, hbody] at h
      cases h
  | false =>
    obtain ⟨hm, _⟩ | ⟨hp, rfl⟩ := execLoadall_cases h
    · simp [mayExecuteLoadall_iff.mpr hm] at hmay
    · exact .inr ⟨hp, rfl, rfl⟩

theorem sameOutsideRegs_loaded (s : State) : SameOutsideRegs s (loaded s) := ⟨⟨rfl, rfl, rfl, rfl⟩, rfl, rfl, fun _ => rfl⟩

/-- Settles O5: LOADALL completes, and what it loads is the table of R104. -/
theorem loadallLoadsTheArea : Obligations.LoadallLoadsTheArea := fun s hquiet hmay himage herr =>
  ⟨_, exec_loadall_of_imageOk hquiet hmay himage, loadedRegs_of_noErratum hquiet herr, rfl, rfl, sameOutsideRegs_loaded s⟩

/-! ### Words under the writes of other agents -/

theorem oldOrNew_areaWord (s : State) (k : Nat) :
    OldOrNew s (Config.areaBase + BitVec.ofNat 24 k) (areaWord k s) := areaWord_cases s k

/-- The three words of a descriptor cache entry at an even place of the area. -/
theorem oldOrNew_areaCache {k : Nat} (h : k % 2 = 0) (s : State) :
    ∃ w0 w1 w2, OldOrNew s (Config.areaBase + BitVec.ofNat 24 k) w0 ∧
      OldOrNew s (Config.areaBase + BitVec.ofNat 24 k + 2) w1 ∧ OldOrNew s (Config.areaBase + BitVec.ofNat 24 k + 4) w2 ∧
      (areaCache k s).base = w1.extractLsb' 0 8 ++ w0 ∧ (areaCache k s).access = w1.extractLsb' 8 8 ∧
      (areaCache k s).limit = w2 := by
  refine ⟨areaWord k s, areaWord (k + 2) s, areaWord (k + 4) s, oldOrNew_areaWord s k, ?_, ?_, ?_⟩
  · exact areaAddr_add k 2 ▸ oldOrNew_areaWord s (k + 2)
  · exact areaAddr_add k 4 ▸ oldOrNew_areaWord s (k + 4)
  · rw [areaCache_of_even h]
    exact ⟨rfl, rfl, rfl⟩

theorem oldOrNew_areaTableReg {k : Nat} (h : k % 2 = 0) (s : State) :
    ∃ w0 w1 w2, OldOrNew s (Config.areaBase + BitVec.ofNat 24 k) w0 ∧
      OldOrNew s (Config.areaBase + BitVec.ofNat 24 k + 2) w1 ∧ OldOrNew s (Config.areaBase + BitVec.ofNat 24 k + 4) w2 ∧
      (areaTableReg k s).base = w1.extractLsb' 0 8 ++ w0 ∧ (areaTableReg k s).limit = w2 := by
  refine ⟨areaWord k s, areaWord (k + 2) s, areaWord (k + 4) s, oldOrNew_areaWord s k, ?_, ?_, ?_⟩
  · exact areaAddr_add k 2 ▸ oldOrNew_areaWord s (k + 2)
  · exact areaAddr_add k 4 ▸ oldOrNew_areaWord s (k + 4)
  · rw [areaTableReg_of_even h]
    exact ⟨rfl, rfl⟩

theorem getLsbD_withBits (mask new old : Word) (k : Nat) :
    (withBits mask new old).getLsbD k = if mask.getLsbD k then new.getLsbD k else old.getLsbD k := by
  by_cases hk : k < 16
  · rw [withBits, BitVec.getLsbD_or, BitVec.getLsbD_and, BitVec.getLsbD_and, BitVec.getLsbD_not]
    cases mask.getLsbD k <;> simp [hk]
  · have hk : 16 ≤ k := by omega
    simp [BitVec.getLsbD_of_ge _ _ hk]

/-- The erratum touches bit 0 of MSW alone. -/
theorem getLsbD_loadedMsw {k : Nat} (hk : 0 < k) (s : State) :
    (loadedMsw s).getLsbD k = (areaWord 0x06 s).getLsbD k := by
  unfold loadedMsw
  split
  · have hbit : (1 : Word).getLsbD k = false := by simp; omega
    rw [getLsbD_withBits, hbit]
    rfl
  · rfl

/-- The conditions of the erratum on the words read. -/
theorem mswErratum_of_words {s : State} (h : s.isProtected = true ∨ (areaWord 0x06 s).getLsbD 0 = true ∨
    (areaWord 0x04 s).getLsbD 0 = false ∨ (s.params.areaWaitStates = 0 ∧ busShared s.now = false) ∨
    s.params.stepping = .later) : mswErratum s = false := by
  unfold mswErratum
  obtain h | h | h | ⟨hwait, hbus⟩ | h := h
  · rw [h]; rfl
  · rw [h]; simp
  · rw [h]; simp
  · rw [hwait, hbus]; simp
  · rw [h]; simp

/-- Settles O6: every register is made of words of the area, each of them the old or the new one. -/
theorem loadallWordsOldOrNew : Obligations.LoadallWordsOldOrNew := by
  intro s hmay harea
  refine ⟨_, exec_loadall_completes hmay harea, sameOutsideRegs_loaded s, ?words,
    ⟨areaWord 0x04 s, areaWord 0x06 s, oldOrNew_areaWord s 0x04, oldOrNew_areaWord s 0x06,
      fun k hk => getLsbD_loadedMsw hk s, fun h => loadedMsw_of_not_erratum (mswErratum_of_words h)⟩, ?caches, ?tables⟩
  case words =>
    simp only [wordEntries, List.forall_mem_cons, List.not_mem_nil, false_implies, implies_true, and_true]
    exact ⟨oldOrNew_areaWord s 0x16, oldOrNew_areaWord s 0x18, oldOrNew_areaWord s 0x1A, oldOrNew_areaWord s 0x1C,
      oldOrNew_areaWord s 0x1E, oldOrNew_areaWord s 0x20, oldOrNew_areaWord s 0x22, oldOrNew_areaWord s 0x24,
      oldOrNew_areaWord s 0x26, oldOrNew_areaWord s 0x28, oldOrNew_areaWord s 0x2A, oldOrNew_areaWord s 0x2C,
      oldOrNew_areaWord s 0x2E, oldOrNew_areaWord s 0x30, oldOrNew_areaWord s 0x32, oldOrNew_areaWord s 0x34⟩
  case caches =>
    simp only [cacheEntries, List.forall_mem_cons, List.not_mem_nil, false_implies, implies_true, and_true]
    exact ⟨oldOrNew_areaCache (k := 0x36) rfl s, oldOrNew_areaCache (k := 0x3C) rfl s,
      oldOrNew_areaCache (k := 0x42) rfl s, oldOrNew_areaCache (k := 0x48) rfl s, oldOrNew_areaCache (k := 0x54) rfl s,
      oldOrNew_areaCache (k := 0x60) rfl s⟩
  case tables =>
    simp only [tableEntries, List.forall_mem_cons, List.not_mem_nil, false_implies, implies_true, and_true]
    exact ⟨oldOrNew_areaTableReg (k := 0x4E) rfl s, oldOrNew_areaTableReg (k := 0x5A) rfl s⟩

/-! ### The privilege rule -/

theorem requireCpl0_denied {s : State} (hp : s.isProtected = true) (hc : s.csDpl ≠ 0) (hs : s.ssDpl ≠ 0) (code : Word)
    (body : State → Outcome) : requireCpl0 code body s = .next (excepted 13 (some code) s) := by
  obtain ⟨hreal | ⟨h0, _⟩, _⟩ | ⟨_, _, _, h⟩ | ⟨_, hx, _⟩ := requireCpl0_cases code body s
  · simp [hp] at hreal
  · exact absurd h0 hc
  · exact h
  · exact absurd (hx.mpr hs) hc

theorem requireCpl0_unspecified {s : State} (hp : s.isProtected = true) (hx : s.csDpl = 0 ↔ s.ssDpl ≠ 0) (code : Word)
    (body : State → Outcome) : requireCpl0 code body s = .refused .cplUnspecified := by
  obtain ⟨hreal | ⟨hc, hs⟩, _⟩ | ⟨_, hc, hs, _⟩ | ⟨_, _, h⟩ := requireCpl0_cases code body s
  · simp [hp] at hreal
  · exact absurd hs (hx.mp hc)
  · exact absurd (hx.mpr hs) hc
  · exact h

theorem loadallBody_ne_cplUnspecified (s : State) : loadallBody s ≠ .refused .cplUnspecified := by
  unfold loadallBody
  split
  · simp
  · split <;> simp

/-- Settles O7: the three cases of the privilege rule; past it LOADALL asks nothing of CPL. -/
theorem loadallPrivilege : Obligations.LoadallPrivilege := by
  intro s
  refine ⟨fun hp hc hs => requireCpl0_denied hp hc hs 0 loadallBody, fun hp hx => requireCpl0_unspecified hp hx 0 loadallBody,
    fun hmay => ?_⟩
  have hmay := mayExecuteLoadall_iff.mpr hmay
  have hbody : exec .loadall s = loadallBody s := requireCpl0_of_mayExecuteLoadall hmay 0 loadallBody
  refine ⟨fun t ht => ?_, by rw [hbody]; exact loadallBody_ne_cplUnspecified s⟩
  obtain ⟨_, _, rfl⟩ | ⟨_, hnot, _⟩ := exec_loadall_cases ht
  · rfl
  · simp [hmay] at hnot

/-! ### Its requirements on the area -/

/-- Settles O8: the two refusals of LOADALL past its privilege check, in their order. -/
theorem loadallAreaRequirements : Obligations.LoadallAreaRequirements := by
  intro s hquiet hmay
  have h06 : areaWord 0x06 s = s.mem.word 0x806 := areaWord_quiet hquiet 0x06
  have h51 : areaByte 0x51 s = s.mem.byte 0x851 := areaByte_quiet hquiet (by decide)
  have h5D : areaByte 0x5D s = s.mem.byte 0x85D := areaByte_quiet hquiet (by decide)
  have hbody : exec .loadall s = loadallBody s := requireCpl0_of_mayExecuteLoadall hmay 0 loadallBody
  rw [hbody, loadallBody, h06, h51, h5D]
  refine ⟨fun hp hbit => ?_, fun hbit hbytes => ?_⟩
  · rw [hp, hbit]; rfl
  · have hmode : ¬(s.isProtected && !(s.mem.word 0x806).getLsbD 0) = true := by simpa using hbit
    have hbyte : (s.mem.byte 0x851 != 0 || s.mem.byte 0x85D != 0) = true := by simpa using hbytes
    rw [if_neg hmode, if_pos hbyte]

/-! ### The level, MSW and memory after it -/

theorem cpl_of_dpls {s : State} {l : Level} (hc : s.csDpl = l) (hs : s.ssDpl = l) : s.cpl = some l := by
  simp [State.cpl, hc, hs]

/-- Settles O10: the access bytes of the CS and SS caches are those at 83FH and 845H, with or without the erratum. -/
theorem loadallSetsLevel : Obligations.LoadallSetsLevel := by
  intro s hquiet hmay himage
  have hregs : (loaded s).regs = { imageRegs s.mem with msw := loadedMsw s } := loadedRegs_quiet hquiet
  have hcs : (loaded s).csDpl = (s.mem.byte 0x83F).extractLsb' 5 2 := by rw [State.csDpl, hregs]; rfl
  have hss : (loaded s).ssDpl = (s.mem.byte 0x845).extractLsb' 5 2 := by rw [State.ssDpl, hregs]; rfl
  exact ⟨_, exec_loadall_of_imageOk hquiet hmay himage, hcs, hss, fun l hc hs => cpl_of_dpls (hcs.trans hc) (hss.trans hs)⟩

/-- Settles O11: of a LOADALL that completes and of one that records its exception. -/
theorem loadallWritesNoMemory : Obligations.LoadallWritesNoMemory := by
  intro s t h
  obtain ⟨_, _, rfl⟩ | ⟨_, _, rfl⟩ := exec_loadall_cases h
  · exact ⟨⟨rfl, rfl, rfl, rfl⟩, rfl, fun _ => rfl⟩
  · exact ⟨⟨rfl, rfl, rfl, rfl⟩, rfl, fun _ => rfl⟩

/-- A LOADALL that completes leaves no erratum to the next: protected mode stays, and the rest of the conditions is as it
was. -/
theorem noErratum_loaded {s : State} (harea : areaOk s = true) (herr : NoErratum s) : NoErratum (loaded s) := by
  obtain hp | herr := herr
  · have hmsw : loadedMsw s = areaWord 0x06 s := loadedMsw_of_not_erratum (mswErratum_of_isProtected hp)
    exact .inl ((congrArg mswProtected hmsw).trans ((areaOk_iff.mp harea).1 hp))
  · exact .inr herr

/-- Settles O12: the second LOADALL loads the same image, or raises its exception with the registers as the first left
them. -/
theorem loadallIdempotent : Obligations.LoadallIdempotent := by
  intro s t u hquiet herr ht hu
  obtain ⟨_, _, rfl⟩ | ⟨_, _, rfl⟩ := exec_loadall_cases hu
  · obtain ⟨_, harea, rfl⟩ | ⟨_, hnot, rfl⟩ := exec_loadall_cases ht
    · calc (loaded (loaded s)).regs = imageRegs s.mem :=
            loadedRegs_of_noErratum (s := loaded s) hquiet (noErratum_loaded harea herr)
        _ = (loaded s).regs := (loadedRegs_of_noErratum hquiet herr).symm
    · have hmay : mayExecuteLoadall s = true := ‹_›
      simp [hmay] at hnot
  · rfl

/-- Settles O13: bit 0 in the two cases in which the erratum does not show itself. -/
theorem loadallErratum : Obligations.LoadallErratum := by
  intro s hquiet hreal himage _ hbit
  have h06 : areaWord 0x06 s = s.mem.word 0x806 := areaWord_quiet hquiet 0x06
  refine ⟨_, exec_loadall_of_imageOk hquiet (mayExecuteLoadall_iff.mpr (.inl hreal)) himage, fun k hk => ?_, fun hclear => ?_⟩
  · exact (getLsbD_loadedMsw hk s).trans (by rw [h06])
  · have herr : NoErratum s := by
      obtain hbus | h4 := hclear
      · exact .inr (.inr (.inr (.inl hbus)))
      · exact .inr (.inr (.inl h4))
    have hmsw : (loaded s).regs.msw = s.mem.word 0x806 := loadedMsw_of_noErratum hquiet herr
    rw [hmsw, hbit]

/-! ### The step after it -/

theorem expandDown_of_codeTypeListed {c : Cache} (h : c.codeTypeListed = true) : c.expandDown = false := by
  simp only [Cache.codeTypeListed, Bool.or_eq_true, Bool.and_eq_true, Bool.not_eq_true'] at h
  obtain h | ⟨_, h⟩ := h
  · simp only [Cache.isCode, Bool.and_eq_true] at h
    simp [Cache.expandDown, Cache.isData, h.2]
  · exact h

theorem rights_fetch_of_codeTypeListed {c : Cache} (h : c.codeTypeListed = true) : rights .cs c .fetch = .allowed := by
  simp only [Cache.codeTypeListed, Bool.or_eq_true] at h
  unfold rights csRights
  obtain h | h := h
  · simp [h, codeRights]
  · simp [h, codeRights]

theorem physAddr_of_le {w : Option PhysWrap} {b : Addr} {off n : Nat} (h : b.toNat + off + n ≤ 2 ^ 24) :
    physAddr w b off n = .ok (b + BitVec.ofNat 24 off) := if_pos h

/-- A reference that passes the three checks is a matter of the physical address. -/
theorem segAccess_of_allowed {x : SegReg} {off n : Nat} {k : Kind} {later : Bool} {s : State}
    (hv : (s.regs.cache x).valid = true) (hl : (s.regs.cache x).withinLimit off n = true)
    (hr : rights x (s.regs.cache x) k = .allowed) :
    segAccess x off n k later s = physAddr s.params.physWrap (s.regs.cache x).base off n := by
  simp [segAccess, hv, hl, hr]

/-- With nothing prefetched, the byte at CS:IP comes from memory where the CS cache admits the fetch. -/
theorem fetchByte_of_admitted {t : State} (hq : t.prefetch = []) (hv : t.regs.csCache.valid = true)
    (htype : t.regs.csCache.codeTypeListed = true) (hlimit : t.regs.ip.toNat ≤ t.regs.csCache.limit.toNat)
    (haddr : t.regs.csCache.base.toNat + t.regs.ip.toNat < 2 ^ 24) :
    fetchByte 0 t = .ok (t.mem.byte (t.regs.csCache.base + t.regs.ip.zeroExtend 24)) := by
  have hwithin : t.regs.csCache.withinLimit t.regs.ip.toNat 1 = true := by
    simpa [Cache.withinLimit, expandDown_of_codeTypeListed htype] using hlimit
  have hseg : segAccess .cs t.regs.ip.toNat 1 .fetch false t =
      .ok (t.regs.csCache.base + BitVec.ofNat 24 t.regs.ip.toNat) :=
    (segAccess_of_allowed (x := .cs) hv hwithin (rights_fetch_of_codeTypeListed htype)).trans
      (physAddr_of_le (b := t.regs.csCache.base) haddr)
  have hfetch : fetchAddr 0 t = .ok (t.regs.csCache.base + t.regs.ip.zeroExtend 24) := by
    rw [fetchAddr, hseg]
    simp [Except.map, BitVec.ofNat_toNat]
  exact fetchByte_of_prefetch_nil hq hfetch

/-- Settles O14: LOADALL that may be executed has completed, and it empties the queue. -/
theorem loadallTransfersControl : Obligations.LoadallTransfersControl := by
  intro s t hmay h hv htype hlimit haddr
  obtain ⟨_, _, rfl⟩ | ⟨_, hnot, _⟩ := exec_loadall_cases h
  · exact fetchByte_of_admitted (t := loaded s) rfl hv htype hlimit haddr
  · simp [hmay] at hnot

/-- Settles O15: the step after LOADALL fetches through the loaded cache. -/
theorem loadallInvalidCs : Obligations.LoadallInvalidCs := by
  intro s t hmay hevent hstopped h hinputs hv
  obtain ⟨_, _, rfl⟩ | ⟨_, hnot, _⟩ := exec_loadall_cases h
  · have hsample : sampleInput (loaded s) = { loaded s with now := Input.quiet } := sampleInput_quiet hinputs
    have hat : AtInstruction (sampleInput (loaded s)) := by
      rw [hsample]
      exact ⟨rfl, hstopped, hevent, by simp [enabledInterrupt, Input.quiet]⟩
    rw [fetchRaisesException (loaded s) hat (by rw [hsample]; rfl) (by rw [hsample]; rfl) (.inl hv), hsample]
  · simp [hmay] at hnot

end Sys2Proof.Machine
end

section
/-! Opcode 0F04H, and the rows whose targets the source does not describe (41_undocumented_opcodes.md R131, R133, R137). -/

namespace Sys2Proof.Machine

theorem exec_op0F04 (s : State) :
    exec .op0F04 s = requireCpl0 s.params.op0F04ErrorCode (fun s => .next (enterStopped s)) s := rfl

theorem mustRefuseLoadall_iff {s : State} :
    mustRefuseLoadall s = true ↔ s.isProtected = true ∧ s.csDpl ≠ 0 ∧ s.ssDpl ≠ 0 := by
  simp [mustRefuseLoadall, and_assoc]

/-- Settles O16: the three cases of the privilege rule, of which the first stops the processor. -/
theorem op0F04StopsOrFaults : Obligations.Op0F04StopsOrFaults := by
  intro s
  rw [exec_op0F04]
  refine ⟨fun hmay => ?stops, fun hmust => ?faults, fun hp hx => requireCpl0_unspecified hp hx _ _⟩
  case stops =>
    exact ⟨_, requireCpl0_of_mayExecuteLoadall hmay _ _, rfl, rfl, ⟨rfl, rfl, rfl, rfl⟩, enterStopped_keeps_protected⟩
  case faults =>
    obtain ⟨hp, hc, hs⟩ := mustRefuseLoadall_iff.mp hmust
    exact requireCpl0_denied hp hc hs _ _

/-- Settles O21: the meaning of each target is its refusal. -/
theorem targetsRefused : Obligations.TargetsRefused := fun m x r s =>
  ⟨(exec_grp80 m x r s).trans (targetOf_eq_refused s _), (exec_testF6Reg0 m r s).trans (targetOf_eq_refused s _),
    (exec_testF7Reg0 m r s).trans (targetOf_eq_refused s _)⟩

theorem shiftReg6_of_unset {s : State} (h : s.params.shiftReg6Alias = none) (group : BitVec 3 → Target) :
    shiftReg6 group s = .refused .shiftAliasUnset := by
  simp [shiftReg6, h]

theorem shiftReg6_of_set {s : State} {x : BitVec 3} (h : s.params.shiftReg6Alias = some x) (group : BitVec 3 → Target) :
    shiftReg6 group s = .refused (.semanticsNotInSource (group x)) := by
  simp [shiftReg6, h, targetOf]

/-- Settles O23: by the parameter, for the group of either opcode. -/
theorem shiftReg6Refused : Obligations.ShiftReg6Refused := fun _ _ _ =>
  ⟨fun h => ⟨shiftReg6_of_unset h .shiftD0, shiftReg6_of_unset h .shiftD1⟩,
    fun _ h => ⟨shiftReg6_of_set h .shiftD0, shiftReg6_of_set h .shiftD1⟩⟩

end Sys2Proof.Machine
end

section
/-! Words in memory (20_memory.md R43, R44) and references through a segment register (R45 to R51). -/

namespace Sys2Proof.Machine

/-! ### A word written -/

theorem addr_succ_ne (a : Addr) : a + 1 ≠ a := by
  intro h
  have hone : (1 : Addr).toNat = 1 := rfl
  have hnat := congrArg BitVec.toNat h
  rw [BitVec.toNat_add, hone] at hnat
  have ha := a.isLt
  omega

theorem byte_setWord {m : Memory} (hm : m.wf = true) (a b : Addr) (v : Word) :
    (m.setWord a v).byte b =
      if b = a + 1 then v.extractLsb' 8 8 else if b = a then v.extractLsb' 0 8 else m.byte b := by
  rw [Memory.setWord, byte_setByte (wf_setByte hm a _), byte_setByte hm]

theorem byte_setWord_low {m : Memory} (hm : m.wf = true) (a : Addr) (v : Word) :
    (m.setWord a v).byte a = v.extractLsb' 0 8 := by
  rw [byte_setWord hm, if_neg (addr_succ_ne a).symm, if_pos rfl]

theorem byte_setWord_high {m : Memory} (hm : m.wf = true) (a : Addr) (v : Word) :
    (m.setWord a v).byte (a + 1) = v.extractLsb' 8 8 := by
  rw [byte_setWord hm, if_pos rfl]

theorem byte_setWord_other {m : Memory} (hm : m.wf = true) {a b : Addr} (h0 : b ≠ a) (h1 : b ≠ a + 1) (v : Word) :
    (m.setWord a v).byte b = m.byte b := by
  rw [byte_setWord hm, if_neg h1, if_neg h0]

theorem word_setWord {m : Memory} (hm : m.wf = true) (a : Addr) (v : Word) : (m.setWord a v).word a = v := by
  rw [Memory.word, byte_setWord_low hm, byte_setWord_high hm]
  exact high_append_low v

/-- Settles O38: the two bytes of the word, and every other byte. -/
theorem wordStore : Obligations.WordStore := fun _ a v hm =>
  ⟨word_setWord hm a v, byte_setWord_low hm a v, byte_setWord_high hm a v, fun _ h0 h1 => byte_setWord_other hm h0 h1 v⟩

/-! ### The valid bit -/

theorem invalidStop_of_ne_ss {x : SegReg} (h : x ≠ .ss) : invalidStop x = .exception 13 (some 0) := by
  cases x with
  | ss => exact absurd rfl h
  | _ => rfl

/-- Settles O39: the valid bit is the first check, and SS has an exception of its own. -/
theorem invalidCacheReference : Obligations.InvalidCacheReference := by
  intro x off n k later s hv
  refine ⟨invalidStop x, segAccess_invalid hv, fun hx => ?_, fun hx => ?_⟩
  · rw [invalidStop_of_ne_ss hx, raise_exception]
  · subst hx
    refine ⟨_, rfl, rfl, rfl, ?_⟩
    cases Config.freeBit s.draws with
    | true => exact .inl rfl
    | false => exact .inr rfl

/-! ### The limit -/

theorem limitStop_eq (x : SegReg) (later : Bool) :
    limitStop x later =
      if later then .exception 9 none else if x = .ss then .exception 12 (some 0) else .exception 13 (some 0) := by
  cases later <;> cases x <;> rfl

/-- The offsets of a reference beyond the limit, by the direction of the segment (log 24). -/
theorem withinLimit_eq_false {c : Cache} {off n : Nat} (hn : 0 < n)
    (h : 0xFFFF < off + n - 1 ∨ (c.expandDown = false ∧ c.limit.toNat < off + n - 1) ∨
      (c.expandDown = true ∧ off ≤ c.limit.toNat)) : c.withinLimit off n = false := by
  have hlim := c.limit.isLt
  unfold Cache.withinLimit
  cases hd : c.expandDown with
  | true =>
    simp only [hd, reduceCtorEq, false_and, true_and, false_or] at h
    simp only [if_true, Bool.and_eq_false_iff, decide_eq_false_iff_not]
    omega
  | false =>
    simp only [hd, reduceCtorEq, false_and, true_and, or_false] at h
    simp only [Bool.false_eq_true, if_false, decide_eq_false_iff_not]
    omega

/-- Settles O40. -/
theorem limitViolation : Obligations.LimitViolation := fun x _ _ _ later _ hv hn h =>
  limitStop_eq x later ▸ segAccess_limit hv (withinLimit_eq_false hn h)

/-! ### The physical address -/

theorem physAddr_unset {b : Addr} {off n : Nat} (h : 2 ^ 24 < b.toNat + off + n) :
    physAddr none b off n = .error (.refuse .physWrapUnset) := by
  unfold physAddr
  rw [if_neg (Nat.not_le.mpr h)]

theorem physAddr_fault {b : Addr} {off n : Nat} (h : 2 ^ 24 < b.toNat + off + n) :
    physAddr (some .fault) b off n = .error (.fault .physicalAddressOverflow) := by
  unfold physAddr
  rw [if_neg (Nat.not_le.mpr h)]

/-- With addresses that wrap every reference has one. -/
theorem physAddr_wrap24 (b : Addr) (off n : Nat) :
    physAddr (some .wrap24) b off n = .ok (b + BitVec.ofNat 24 off) := by
  simp [physAddr]

theorem toNat_base_add (b : Addr) (off : Word) :
    (b + BitVec.ofNat 24 off.toNat).toNat = (b.toNat + off.toNat) % 2 ^ 24 := by
  have hoff := off.isLt
  rw [BitVec.toNat_add, BitVec.toNat_ofNat, Nat.mod_eq_of_lt (a := off.toNat) (by omega)]

/-- Settles O41: past the three checks the reference is `physAddr`, by the sum of base and offset. -/
theorem referenceAddress : Obligations.ReferenceAddress := by
  intro x off n k later s hn hv hl hr
  have hoff := off.isLt
  have hbase := (s.regs.cache x).base.isLt
  rw [segAccess_of_allowed hv hl hr]
  refine ⟨fun hle => ?within, fun hgt => ?above⟩
  case within =>
    refine ⟨_, physAddr_of_le hle, ?_⟩
    rw [toNat_base_add, Nat.mod_eq_of_lt (by omega)]
  case above =>
    have hgt' : 2 ^ 24 < (s.regs.cache x).base.toNat + off.toNat + n := by omega
    refine ⟨fun hw => by rw [hw, physAddr_unset hgt'], fun hw => by rw [hw, physAddr_fault hgt'],
      fun hw => ⟨_, by rw [hw, physAddr_wrap24], ?_⟩⟩
    rw [toNat_base_add]
    omega

/-! ### The access rights -/

theorem segAccess_of_denied {x : SegReg} {off n : Nat} {k : Kind} {later : Bool} {s : State}
    (hv : (s.regs.cache x).valid = true) (hl : (s.regs.cache x).withinLimit off n = true)
    (hr : rights x (s.regs.cache x) k = .denied) : segAccess x off n k later s = .error (.exception 13 (some 0)) := by
  simp [segAccess, hv, hl, hr, zeroCode]

theorem segAccess_of_unspecified {x : SegReg} {off n : Nat} {k : Kind} {later : Bool} {s : State}
    (hv : (s.regs.cache x).valid = true) (hl : (s.regs.cache x).withinLimit off n = true)
    (hr : rights x (s.regs.cache x) k = .unspecified) :
    segAccess x off n k later s = .error (.refuse .segmentTypeUnspecified) := by
  simp [segAccess, hv, hl, hr]

/-- A bit of a field of the access byte. -/
theorem getLsbD_of_extract {b : Byte} {start len : Nat} {v : BitVec len} (h : b.extractLsb' start len = v) {j : Nat}
    (hj : j < len) : b.getLsbD (start + j) = v.getLsbD j := by
  rw [← h, BitVec.getLsbD_extractLsb']
  simp [hj]

section
variable {c : Cache}

/-- Bits 4 and 3 of a code segment (10_state.md R18). -/
theorem isCode_of_bits (h : c.access.extractLsb' 3 2 = 3) : c.isCode = true := by
  have h3 : c.access.getLsbD 3 = true := getLsbD_of_extract (j := 0) h (by decide)
  have h4 : c.access.getLsbD 4 = true := getLsbD_of_extract (j := 1) h (by decide)
  rw [Cache.isCode, Cache.isSegment, h3, h4]
  rfl

/-- Bits 4 and 3 of a data segment (10_state.md R18). -/
theorem isData_of_bits (h : c.access.extractLsb' 3 2 = 2) : c.isData = true := by
  have h3 : c.access.getLsbD 3 = false := getLsbD_of_extract (j := 0) h (by decide)
  have h4 : c.access.getLsbD 4 = true := getLsbD_of_extract (j := 1) h (by decide)
  rw [Cache.isData, Cache.isSegment, h3, h4]
  rfl

/-- A code segment gives the same rights in CS, DS and ES. -/
theorem rights_of_isCode (h : c.isCode = true) {x : SegReg} (hx : x ≠ .ss) :
    rights x c .read = codeRights c .read ∧ rights x c .write = codeRights c .write := by
  have hdata : c.isData = false := by
    simp only [Cache.isCode, Bool.and_eq_true] at h
    simp [Cache.isData, h.2]
  cases x with
  | ss => exact absurd rfl hx
  | cs => simp [rights, csRights, h]
  | ds => simp [rights, dataRights, h, hdata]
  | es => simp [rights, dataRights, h, hdata]

theorem codeRights_read (h : c.isCode = true) :
    codeRights c .read = if c.access.getLsbD 1 then .allowed else .denied := by
  rw [codeRights, Cache.readableCode, h, Bool.true_and]

/-- The rights of a code segment in CS, DS and ES by bit 1 of its access byte. -/
theorem rights_of_code_bits (h : c.access.extractLsb' 3 2 = 3) {x : SegReg} (hx : x ≠ .ss) :
    rights x c .read = (if c.access.getLsbD 1 then .allowed else .denied) ∧ rights x c .write = .denied := by
  have hcode := isCode_of_bits h
  obtain ⟨hr, hw⟩ := rights_of_isCode hcode hx
  exact ⟨hr.trans (codeRights_read hcode), hw⟩

theorem rights_fetch_of_isCode (h : c.isCode = true) : rights .cs c .fetch = .allowed := by
  simp [rights, csRights, h, codeRights]

theorem writableData_of_bits (h : c.isData = true) : c.writableData = c.access.getLsbD 1 := by
  rw [Cache.writableData, h, Bool.true_and]

/-- A writable expand-up data segment in CS: bits 4 to 1 are 1001. -/
theorem rights_cs_of_bits (h : c.access.extractLsb' 1 4 = 9) (k : Kind) : rights .cs c k = .allowed := by
  have h1 : c.access.getLsbD 1 = true := getLsbD_of_extract (j := 0) h (by decide)
  have h2 : c.access.getLsbD 2 = false := getLsbD_of_extract (j := 1) h (by decide)
  have h3 : c.access.getLsbD 3 = false := getLsbD_of_extract (j := 2) h (by decide)
  have h4 : c.access.getLsbD 4 = true := getLsbD_of_extract (j := 3) h (by decide)
  simp only [rights, csRights, Cache.isCode, Cache.writableData, Cache.expandDown, Cache.isData, Cache.isSegment,
    h1, h2, h3, h4]
  rfl

/-- A writable data segment in DS, ES and SS. -/
theorem rights_of_writableData (hd : c.isData = true) (hw : c.writableData = true) {x : SegReg} (hx : x ≠ .cs) :
    rights x c .read = .allowed ∧ rights x c .write = .allowed := by
  cases x with
  | cs => exact absurd rfl hx
  | ss => simp [rights, ssRights, hw]
  | ds => simp [rights, dataRights, hd, hw]
  | es => simp [rights, dataRights, hd, hw]

/-- A data segment that is not writable in DS and ES. -/
theorem rights_of_readOnlyData (hd : c.isData = true) (hw : c.writableData = false) {x : SegReg} (hx : x = .ds ∨ x = .es) :
    rights x c .read = .allowed ∧ rights x c .write = .denied := by
  obtain rfl | rfl := hx <;> simp [rights, dataRights, hd, hw]

end

/-- Settles O42: the rows by code and data, readable and writable. -/
theorem rightsTable : Obligations.RightsTable := by
  refine ⟨fun x off n k later s hv hl => ⟨segAccess_of_denied hv hl, segAccess_of_unspecified hv hl⟩, fun c =>
    ⟨fun hcode hread => ?executeOnly, fun hcode hread => ?executeRead, rights_cs_of_bits, fun hdata hwrite x hx => ?writable,
      fun hdata hwrite x hx => ?readOnly⟩⟩
  case executeOnly =>
    refine ⟨rights_fetch_of_isCode (isCode_of_bits hcode), fun x hx => ?_⟩
    rw [(rights_of_code_bits hcode hx).1, hread]
    exact ⟨rfl, (rights_of_code_bits hcode hx).2⟩
  case executeRead =>
    refine ⟨rights_fetch_of_isCode (isCode_of_bits hcode), fun x hx => ?_⟩
    rw [(rights_of_code_bits hcode hx).1, hread]
    exact ⟨rfl, (rights_of_code_bits hcode hx).2⟩
  case writable =>
    have hdata := isData_of_bits hdata
    exact rights_of_writableData hdata ((writableData_of_bits hdata).trans hwrite) hx
  case readOnly =>
    have hdata := isData_of_bits hdata
    exact rights_of_readOnlyData hdata ((writableData_of_bits hdata).trans hwrite) hx

end Sys2Proof.Machine
end

section
/-! Loads of segment registers (20_memory.md R53 to R56) and their visible part read (42_other_instructions.md R151). -/

namespace Sys2Proof.Machine

/-! ### The end of an instruction -/

/-- IP advances from where it was before the instruction, whatever other register the instruction wrote. -/
theorem ipAdvanced_advance {len : Nat} {s u : State} (h : u.regs.ip = s.regs.ip) : IpAdvanced len s (advance len u) := by
  intro hlt
  rw [← h] at hlt ⊢
  exact nextIp_of_lt hlt

theorem setSeg_ip (r : Regs) (x : SegReg) (v : Word) (c : Cache) : (r.setSeg x v c).ip = r.ip := by cases x <;> rfl

/-- What follows a load differs from the end of another instruction in the prefetch queue alone. -/
theorem afterLoad_eq (x : SegReg) (len : Nat) (s : State) : ∃ q, afterLoad x len s = { advance len s with prefetch := q } := by
  unfold afterLoad
  split
  · exact ⟨[], rfl⟩
  · exact ⟨(advance len s).prefetch, rfl⟩

/-- The state after a load of `x` with `v` and the cache `c`. -/
def afterSegLoad (x : SegReg) (v : Word) (c : Cache) (n len : Nat) (s : State) : State :=
  afterLoad x len { s with regs := s.regs.setSeg x v c, draws := n }

section
variable (x : SegReg) (v : Word) (c : Cache) (n len : Nat) (s : State)

theorem afterSegLoad_regs : (afterSegLoad x v c n len s).regs =
    { s.regs.setSeg x v c with ip := (afterSegLoad x v c n len s).regs.ip } := by
  obtain ⟨q, h⟩ := afterLoad_eq x len { s with regs := s.regs.setSeg x v c, draws := n }
  rw [afterSegLoad, h]
  rfl

@[simp] theorem afterSegLoad_seg : (afterSegLoad x v c n len s).regs.seg x = v := by
  rw [afterSegLoad_regs]
  exact setSeg_seg_self s.regs x v c

@[simp] theorem afterSegLoad_cache : (afterSegLoad x v c n len s).regs.cache x = c := by
  rw [afterSegLoad_regs]
  exact setSeg_cache_self s.regs x v c

theorem ipAdvanced_afterSegLoad : IpAdvanced len s (afterSegLoad x v c n len s) := by
  obtain ⟨q, h⟩ := afterLoad_eq x len { s with regs := s.regs.setSeg x v c, draws := n }
  rw [afterSegLoad, h]
  exact ipAdvanced_advance (u := { s with regs := s.regs.setSeg x v c, draws := n }) (setSeg_ip s.regs x v c)

theorem sameOutsideRegs_afterSegLoad : SameOutsideRegs s (afterSegLoad x v c n len s) := by
  obtain ⟨q, h⟩ := afterLoad_eq x len { s with regs := s.regs.setSeg x v c, draws := n }
  rw [afterSegLoad, h]
  exact ⟨⟨rfl, rfl, rfl, rfl⟩, rfl, rfl, fun _ => rfl⟩

end

/-! ### Real mode -/

/-- The bits of the access byte that R53 states: valid, a segment, data, expand-up, writable. -/
theorem realLoadAccess_bits : realLoadAccess.getLsbD 7 = true ∧ realLoadAccess.getLsbD 4 = true ∧
    realLoadAccess.getLsbD 3 = false ∧ realLoadAccess.getLsbD 1 = true := by
  have h : ∀ (d : BitVec 2) (a : BitVec 1), let b : Byte := 1#1 ++ d ++ 0b1001#4 ++ a
      b.getLsbD 7 = true ∧ b.getLsbD 4 = true ∧ b.getLsbD 3 = false ∧ b.getLsbD 1 = true := by decide
  exact h Config.realLoadDpl Config.realLoadAccessed

theorem realCache_valid (p : Word) : (realCache p).valid = true := realLoadAccess_bits.1

theorem realCache_writableData (p : Word) : (realCache p).writableData = true := by
  obtain ⟨_, h4, h3, h1⟩ := realLoadAccess_bits
  simp only [Cache.writableData, Cache.isData, Cache.isSegment, realCache, h4, h3, h1]
  rfl

theorem loadSegReg_real {s : State} (h : s.isProtected = false) (x : SegReg) (v : Word) (d : Option Cache) (len : Nat) :
    loadSegReg x v d len s = .next (afterSegLoad x v (realCache v) s.draws len s) := by
  simp [loadSegReg, loadSeg, h, afterSegLoad]

/-- Settles O43: the cache is the one of the paragraph. -/
theorem realModeSegmentLoad : Obligations.RealModeSegmentLoad := by
  intro x p d len s hreal
  refine ⟨_, loadSegReg_real hreal x p d len, afterSegLoad_seg .., ?_⟩
  rw [afterSegLoad_cache]
  exact ⟨realCache_base p, rfl, realCache_valid p, realCache_writableData p, afterSegLoad_regs ..,
    ipAdvanced_afterSegLoad _ _ _ _ _ _, sameOutsideRegs_afterSegLoad ..⟩

/-! ### Null selectors -/

theorem nullSelector_iff {v : Word} : nullSelector v = true ↔ v.toNat ≤ 3 := by simp [nullSelector]

theorem nullSelector_eq_false_iff {v : Word} : nullSelector v = false ↔ 3 < v.toNat := by simp [nullSelector]

theorem nullCache_valid (n : Nat) : (nullCache n).valid = false := by
  have hmask : (0x7F : Byte).getLsbD 7 = false := rfl
  rw [Cache.valid, nullCache, BitVec.getLsbD_and, hmask, Bool.and_false]

theorem loadSegReg_null {x : SegReg} {v : Word} {s : State} (hp : s.isProtected = true) (hx : x = .ds ∨ x = .es)
    (hv : v.toNat ≤ 3) (d : Option Cache) (len : Nat) :
    loadSegReg x v d len s = .next (afterSegLoad x v (nullCache s.draws) (s.draws + 1) len s) := by
  obtain rfl | rfl := hx <;> simp [loadSegReg, loadSeg, hp, nullSelector_iff.mpr hv, loadNull, afterSegLoad]

/-- Settles O44: the cache that the load leaves is invalid, and O39 says what a reference through it does. -/
theorem nullSelectorLoad : Obligations.NullSelectorLoad := by
  intro x v d len s hp hx hv
  have hss : x ≠ .ss := by obtain rfl | rfl := hx <;> decide
  refine ⟨_, loadSegReg_null hp hx hv d len, afterSegLoad_seg .., ?_, ipAdvanced_afterSegLoad _ _ _ _ _ _,
    sameOutsideRegs_afterSegLoad .., fun off n k later => ?_⟩
  · rw [afterSegLoad_cache]
    exact afterSegLoad_regs ..
  · obtain ⟨st, hst, hraise, _⟩ := invalidCacheReference x off n k later
      (afterSegLoad x v (nullCache s.draws) (s.draws + 1) len s) (by rw [afterSegLoad_cache]; exact nullCache_valid _)
    exact ⟨st, hst, hraise hss⟩

/-! ### Descriptors -/

/-- Whether the load of a descriptor fails: its level, or a further check (log 30). -/
theorem loadFails_some {x : SegReg} {v : Word} {c : Cache} {l : Level} :
    loadFails x v (some c) l = true ↔ c.dpl < l ∨ FurtherFails x.index v c l := by
  simp [loadFails, FurtherFails]

theorem loadFails_of_forall {x : SegReg} {v : Word} {d : Option Cache} {l : Level}
    (h : ∀ c, d = some c → c.dpl < l ∨ FurtherFails x.index v c l) : loadFails x v d l = true := by
  cases d with
  | none => rfl
  | some c => exact loadFails_some.mpr (h c rfl)

theorem loadFails_eq_false {x : SegReg} {v : Word} {c : Cache} {l : Level} (hl : l ≤ c.dpl)
    (hf : ¬ FurtherFails x.index v c l) : loadFails x v (some c) l = false := by
  rw [← Bool.not_eq_true, loadFails_some]
  exact fun h => h.elim (BitVec.not_lt.mpr hl) hf

/-- The error code of a faulting load is the selector with bits 1-0 cleared (60_exceptions.md R232). -/
theorem extract_selectorErrorCode_high (v : Word) :
    (selectorErrorCode v).extractLsb' 2 14 = v.extractLsb' 2 14 := by
  have hmask : ∀ j : Fin 14, (0xFFFC : Word).getLsbD (2 + j.val) = true := by decide
  apply BitVec.eq_of_getLsbD_eq
  intro j hj
  rw [BitVec.getLsbD_extractLsb', BitVec.getLsbD_extractLsb', selectorErrorCode, BitVec.getLsbD_and, hmask ⟨j, hj⟩,
    Bool.and_true]

theorem extract_selectorErrorCode_low (v : Word) : (selectorErrorCode v).extractLsb' 0 2 = 0 := by
  have hmask : ∀ j : Fin 2, (0xFFFC : Word).getLsbD (0 + j.val) = false := by decide
  apply BitVec.eq_of_getLsbD_eq
  intro j hj
  rw [BitVec.getLsbD_extractLsb', selectorErrorCode, BitVec.getLsbD_and, hmask ⟨j, hj⟩]
  simp

/-- A selector that is not null has a bit above bit 1. -/
theorem extract_high_ne_zero {v : Word} (h : 3 < v.toNat) : v.extractLsb' 2 14 ≠ 0 := by
  intro h0
  have hzero : (0 : BitVec 14).toNat = 0 := rfl
  have hnat := congrArg BitVec.toNat h0
  have hv := v.isLt
  rw [BitVec.extractLsb'_toNat, Nat.shiftRight_eq_div_pow, hzero] at hnat
  omega

theorem loadSegReg_descriptor {s : State} {l : Level} {v : Word} (hl : AtLevel l s) (hv : 3 < v.toNat) (x : SegReg)
    (d : Option Cache) (len : Nat) :
    loadSegReg x v d len s = if loadFails x v d l then .next (excepted 13 (some (selectorErrorCode v)) s)
      else .next (afterSegLoad x v (d.getD (s.regs.cache x)) s.draws len s) := by
  obtain ⟨hp, hc, hs⟩ := hl
  rw [loadSegReg, loadSeg, if_pos hp, nullSelector_eq_false_iff.mpr hv, if_neg Bool.false_ne_true, loadDescriptor,
    askCpl_at hc hs]
  cases loadFails x v d l <;> rfl

/-- Settles O45: by whether the load fails at the level. -/
theorem descriptorSegmentLoad : Obligations.DescriptorSegmentLoad := by
  intro x v d l len s hl hv
  rw [loadSegReg_descriptor hl hv]
  refine ⟨fun hfails => ?_, fun c hd hdpl hfurther => ?_⟩
  · rw [if_pos (loadFails_of_forall hfails)]
    refine ⟨_, rfl, extract_selectorErrorCode_high v, ?_, extract_selectorErrorCode_low v⟩
    rw [extract_selectorErrorCode_high]
    exact extract_high_ne_zero hv
  · subst hd
    rw [loadFails_eq_false hdpl hfurther]
    exact ⟨_, rfl, afterSegLoad_seg .., afterSegLoad_cache .., afterSegLoad_regs .., ipAdvanced_afterSegLoad _ _ _ _ _ _,
      sameOutsideRegs_afterSegLoad ..⟩

/-! ### MOV AX,ES and MOV AX,ES:[BX] -/

theorem limitViolated_of_invalid {x : SegReg} {s : State} (h : (s.regs.cache x).valid = false) (off n : Nat) :
    limitViolated x off n s = false := by
  simp [limitViolated, h]

/-- At an invalid cache a stop leaves the state before the instruction. -/
theorem raiseLoose_of_invalid {x : SegReg} {s : State} (h : (s.regs.cache x).valid = false) (off n : Nat) (st : Stop)
    (ip : Word) (loose : State → State) : raiseLoose x off n st ip loose s = raiseAt st ip s := by
  rw [raiseLoose, limitViolated_of_invalid h]
  rfl

theorem segReadWord_error {x : SegReg} {off : Word} {s : State} {st : Stop}
    (h : segAccess x off.toNat 2 .read false s = .error st) : segReadWord x off s = .error st := by
  simp [segReadWord, h, Except.map]

theorem segReadWord_of_access {x : SegReg} {off : Word} {s : State} {a : Addr}
    (h : segAccess x off.toNat 2 .read false s = .ok a) : segReadWord x off s = .ok (s.mem.word a) := by
  simp [segReadWord, h, Except.map]

/-- Settles O46: MOV AX,ES makes no reference; MOV AX,ES:[BX] makes one through an invalid cache. -/
theorem segmentRegisterRead : Obligations.SegmentRegisterRead := by
  intro len s
  refine ⟨rfl, ipAdvanced_advance (u := { s with regs := s.regs.setGpr .ax s.regs.es }) rfl,
    ⟨⟨rfl, rfl, rfl, rfl⟩, rfl, rfl, fun _ => rfl⟩, fun hv => ?_⟩
  have hv : (s.regs.cache .es).valid = false := hv
  rw [movAxEsBx, segReadWord_error (segAccess_invalid hv)]
  exact raiseLoose_of_invalid hv _ _ _ _ _

end Sys2Proof.Machine
end

section
/-! PUSH SP, DIV and IDIV (42_other_instructions.md R152, R154, R155; 60_exceptions.md R230). -/

namespace Sys2Proof.Machine

theorem segWriteWord_of_access {x : SegReg} {off : Word} {s : State} {a : Addr}
    (h : segAccess x off.toNat 2 .write false s = .ok a) (v : Word) (len : Nat) :
    segWriteWord x off v len s = .ok (storeMem len (fun m => m.setWord a v) s) := by
  rw [segWriteWord, h]
  rfl

/-- The state after the word `v` is pushed at the address `a`. -/
def pushed (v : Word) (a : Addr) (len : Nat) (s : State) : State :=
  advance len { storeMem len (fun m => m.setWord a v) s with regs := { s.regs with sp := s.regs.sp - 2 } }

theorem pushAt_of_access {s : State} {a : Addr} (h : segAccess .ss (s.regs.sp - 2).toNat 2 .write false s = .ok a)
    (v : Word) (len : Nat) (ip : Word) : pushAt v len ip s = .next (pushed v a len s) := by
  rw [pushAt, segWriteWord_of_access h]
  rfl

theorem pushed_mem (v : Word) (a : Addr) (len : Nat) (s : State) : (pushed v a len s).mem = s.mem.setWord a v := rfl

/-- Settles O47: the word is stored at the address of its reference, and memory is else as it was. -/
theorem pushSpPushesOldSp : Obligations.PushSpPushesOldSp := by
  intro len s a hwf ha
  refine ⟨pushed s.regs.sp a len s, pushAt_of_access ha s.regs.sp len s.regs.ip, ?_, rfl, ipAdvanced_advance rfl,
    fun b h0 h1 => ?_, rfl, rfl, rfl, rfl, rfl, rfl⟩
  · rw [pushed_mem, word_setWord hwf]
  · rw [pushed_mem, byte_setWord_other hwf h0 h1]

theorem divisionOp_some {w : Nat} (v : BitVec w) (len : Nat) (complete : BitVec w → State → State) (s : State) :
    divisionOp (some v) len complete s = .next (advance len (complete v s)) := rfl

theorem divisionOp_none {w : Nat} (len : Nat) (complete : BitVec w → State → State) (s : State) :
    divisionOp none len complete s = .next (excepted 0 none s) := rfl

theorem idivQuotient_of_mem {w : Nat} {q : Int} (hlo : -(2 ^ (w - 1)) ≤ q) (hhi : q < 2 ^ (w - 1)) :
    idivQuotient w q = some (BitVec.ofInt w q) := if_pos ⟨hlo, hhi⟩

theorem idivQuotient_of_not_mem {w : Nat} {q : Int} (h : q < -(2 ^ (w - 1)) ∨ 2 ^ (w - 1) ≤ q) :
    idivQuotient w q = none := if_neg (by omega)

/-- Settles O49: by whether the exact quotient fits its width. -/
theorem divisionRange : Obligations.DivisionRange := by
  intro w len complete s hw
  refine ⟨fun q => ⟨fun hlo hhi => ⟨?_, BitVec.toInt_ofInt_eq_self hw hlo hhi⟩, fun hout => ?_⟩,
    fun q => ⟨fun hlt => ⟨?_, ?_⟩, fun hge => ?_⟩⟩
  · rw [idivOp, idivQuotient_of_mem hlo hhi, divisionOp_some]
  · rw [idivOp, idivQuotient_of_not_mem hout, divisionOp_none]
  · rw [divOp, divQuotient, if_pos hlt, divisionOp_some]
  · rw [BitVec.toNat_ofNat, Nat.mod_eq_of_lt hlt]
  · rw [divOp, divQuotient, if_neg (Nat.not_lt.mpr hge), divisionOp_none]

end Sys2Proof.Machine
end

section
/-! The IOPL rule (60_exceptions.md R254) and POPF (42_other_instructions.md R159, R160). -/

namespace Sys2Proof.Machine

/-! ### The rule -/

theorem ioplDenied_of_lt {l : Level} {s : State} (hl : AtLevel l s) (h : s.iopl < l) : ioplDenied s = some true := by
  obtain ⟨hp, hc, hs⟩ := hl
  rw [ioplDenied, if_pos hp, askCpl_at hc hs, decide_eq_true h]

theorem ioplDenied_of_allowed {s : State} (h : s.isProtected = false ∨ ∃ l, AtLevel l s ∧ l ≤ s.iopl) :
    ioplDenied s = some false := by
  obtain hreal | ⟨l, ⟨hp, hc, hs⟩, hle⟩ := h
  · simp [ioplDenied, hreal]
  · rw [ioplDenied, if_pos hp, askCpl_at hc hs, decide_eq_false (BitVec.not_lt.mpr hle)]

theorem ioplCheck_denied {s : State} (h : ioplDenied s = some true) (body : State → Outcome) :
    ioplCheck body s = .next (excepted 13 (some 0) s) := by
  rw [ioplCheck, h, protectionException_eq_excepted]

theorem ioplCheck_allowed {s : State} (h : ioplDenied s = some false) (body : State → Outcome) :
    ioplCheck body s = body s := by
  rw [ioplCheck, h]

/-! ### STI and CLI -/

theorem getLsbD_maskIf (k : Nat) : maskIf.getLsbD k = decide (k = 9) := by
  have hmask : ∀ j : Fin 16, maskIf.getLsbD j.val = decide (j.val = 9) := by decide
  by_cases hk : k < 16
  · exact hmask ⟨k, hk⟩
  · rw [BitVec.getLsbD_of_ge _ k (by omega), decide_eq_false (by omega)]

theorem getLsbD_setFlagIf (b : Bool) (f : Word) (k : Nat) :
    (setFlagIf b f).getLsbD k = if k = 9 then b else f.getLsbD k := by
  rw [setFlagIf, getLsbD_withBits, getLsbD_maskIf]
  by_cases hk : k = 9
  · subst hk
    cases b <;> rfl
  · simp [hk]

/-- STI and CLI past the rule. -/
theorem writeIf_facts (b : Bool) (len : Nat) (s : State) :
    (writeIf b len s).regs = { s.regs with flags := (writeIf b len s).regs.flags, ip := (writeIf b len s).regs.ip } ∧
      IpAdvanced len s (writeIf b len s) ∧ SameOutsideRegs s (writeIf b len s) ∧
      ∀ k, (writeIf b len s).regs.flags.getLsbD k = if k = 9 then b else s.regs.flags.getLsbD k :=
  ⟨rfl, ipAdvanced_advance rfl, ⟨⟨rfl, rfl, rfl, rfl⟩, rfl, rfl, fun _ => rfl⟩, getLsbD_setFlagIf b s.regs.flags⟩

/-! ### String instructions with a port -/

theorem usesPort_iff {i : StringInstr} : i.usesPort = true ↔ i.op = .ins ∨ i.op = .outs := by
  simp [StringInstr.usesPort]

theorem stringOp_denied {i : StringInstr} {s : State} (hport : i.usesPort = true) (h : ioplDenied s = some true)
    (complete : State → State) :
    stringOp i complete s = .next (excepted 13 (some 0) (withSavedRegs i (i.fault true 0 false s) s)) := by
  rw [stringOp, if_pos hport, h, protectionException_eq_excepted]

/-- Settles O50: by the rule's answer at the level. -/
theorem ioplRule : Obligations.IoplRule := by
  intro port len body i complete s
  refine ⟨fun l hl hlt => ?denied, fun hallowed => ?allowed⟩
  case denied =>
    have hdenied := ioplDenied_of_lt hl hlt
    refine ⟨fun f hf => ?_, fun hport => ?_⟩
    · simp only [List.mem_cons, List.not_mem_nil, or_false] at hf
      obtain rfl | rfl | rfl | rfl := hf <;> exact ioplCheck_denied hdenied _
    · exact ⟨_, stringOp_denied (usesPort_iff.mpr hport) hdenied complete, rfl, rfl, rfl, ⟨rfl, rfl, rfl, rfl⟩, fun _ => rfl⟩
  case allowed =>
    have hallowed := ioplDenied_of_allowed hallowed
    refine ⟨⟨_, ioplCheck_allowed hallowed _, writeIf_facts true len s⟩,
      ⟨_, ioplCheck_allowed hallowed _, writeIf_facts false len s⟩, ioplCheck_allowed hallowed body, ?_⟩
    rw [portOp, ioplCheck_allowed hallowed, reservedPort, ← Bool.decide_and]
    by_cases hport : 0x00F8 ≤ port.toNat ∧ port.toNat ≤ 0x00FF
    · rw [if_pos (decide_eq_true hport), if_pos hport]
    · rw [if_neg (by simpa using hport), if_neg hport]

/-! ### POPF -/

/-- The bits of the mask of R159 and R160. -/
theorem getLsbD_popMask (mayIf mayIopl : Bool) {k : Nat} (hk : k < 16) :
    (popMask mayIf mayIopl).getLsbD k = if k = 9 then mayIf else if k = 12 ∨ k = 13 then mayIopl else true := by
  have hmask : ∀ (a b : Bool) (j : Fin 16), (popMask a b).getLsbD j.val =
      if j.val = 9 then a else if j.val = 12 ∨ j.val = 13 then b else true := by decide
  exact hmask mayIf mayIopl ⟨k, hk⟩

theorem getLsbD_poppedFlags (l : Level) (v old : Word) {k : Nat} (hk : k < 16) :
    (poppedFlags l v old).getLsbD k =
      if (if k = 9 then decide (l ≤ flagIopl old) else if k = 12 ∨ k = 13 then l == 0 else true)
      then v.getLsbD k else old.getLsbD k := by
  rw [poppedFlags, getLsbD_withBits, getLsbD_popMask _ _ hk]

theorem flagIopl_poppedFlags (l : Level) (v old : Word) :
    flagIopl (poppedFlags l v old) = if l = 0 then v.extractLsb' 12 2 else flagIopl old := by
  apply BitVec.eq_of_getLsbD_eq
  intro j hj
  have h9 : ¬ 12 + j = 9 := by omega
  have h12 : 12 + j = 12 ∨ 12 + j = 13 := by omega
  rw [flagIopl, BitVec.getLsbD_extractLsb', getLsbD_poppedFlags l v old (by omega), if_neg h9, if_pos h12]
  by_cases hl : l = 0
  · rw [if_pos (by simpa using hl), if_pos hl, BitVec.getLsbD_extractLsb']
  · rw [if_neg (by simpa using hl), if_neg hl, flagIopl, BitVec.getLsbD_extractLsb']

theorem popFlags_at {l : Level} {s : State} (hl : AtLevel l s) (v : Word) :
    popFlags v s = some (poppedFlags l v s.regs.flags) := by
  obtain ⟨hp, hc, hs⟩ := hl
  rw [popFlags, if_pos hp, askCpl_at hc hs]

/-- Settles O51: the word at SS:SP through the mask of the level. -/
theorem popfRespectsPrivilege : Obligations.PopfRespectsPrivilege := by
  intro l len s hl
  refine ⟨fun st hst => ?_, fun a v ha hv => ?_⟩
  · rw [popfOp, segReadWord_error hst]
  · subst hv
    have hpop : popfOp len s = .next (advance len { s with regs := { s.regs with
        flags := poppedFlags l (s.mem.word a) s.regs.flags, sp := s.regs.sp + 2 } }) := by
      simp only [popfOp, segReadWord_of_access ha, popFlags_at hl]
    refine ⟨_, hpop, rfl, ipAdvanced_advance rfl, ⟨⟨rfl, rfl, rfl, rfl⟩, rfl, rfl, fun _ => rfl⟩, ?_,
      flagIopl_poppedFlags l _ _, fun k hk h9 h12 h13 => ?_⟩
    · refine (getLsbD_poppedFlags l _ _ (by decide)).trans ?_
      simp [State.iopl]
    · refine (getLsbD_poppedFlags l _ _ hk).trans ?_
      simp [h9, h12, h13]

end Sys2Proof.Machine
end

section
/-! Returns (42_other_instructions.md R161, R163, R164; 60_exceptions.md R248, R253) and INT (R162). -/

namespace Sys2Proof.Machine

/-- Settles O52: NT is looked at before the frame. -/
theorem returnWithNtSet : Obligations.ReturnWithNtSet := by
  intro f s hp hnt
  have hnt : flagNt s.regs.flags = true := hnt
  rw [trapReturn, if_pos hp, if_pos hnt, if_pos rfl, protectionException_eq_excepted]

/-! ### The checks of a return -/

theorem null_of_le {f : ReturnFrame} (h : f.cs.toNat ≤ 3 ∨ f.ss.toNat ≤ 3) : f.null = true := by
  simpa [ReturnFrame.null, nullSelector] using h

theorem null_of_gt {f : ReturnFrame} (hc : 3 < f.cs.toNat) (hs : 3 < f.ss.toNat) : f.null = false := by
  simpa [ReturnFrame.null, nullSelector] using ⟨hc, hs⟩

/-- A load on a return fails where the level of the descriptor does not fit, or a further check fails. -/
theorem returnLoadFails_of_forall {x : SegReg} {v : Word} {d : Option Cache} {l : Level}
    (h : ∀ c, d = some c → ¬ LevelFits v c l ∨ FurtherFails x.index v c l) : returnLoadFails x v d l = true := by
  cases d with
  | none => rfl
  | some c =>
    by_cases hdpl : c.dpl = selectorRpl v
    · rw [returnLoadFails_of_dpl hdpl, loadFails_some]
      refine (h c rfl).imp_left fun hfits => ?_
      rw [← BitVec.not_le]
      exact fun hle => hfits ⟨hle, hdpl⟩
    · exact returnLoadFails_of_dpls fun e he => .inr (by cases he; exact hdpl)

theorem returnLoadFails_of_fits {x : SegReg} {v : Word} {c : Cache} {l : Level} (hfits : LevelFits v c l)
    (hf : ¬ FurtherFails x.index v c l) : returnLoadFails x v (some c) l = false := by
  obtain ⟨hle, hdpl⟩ := hfits
  rw [returnLoadFails_of_dpl hdpl, loadFails_eq_false hle hf]

/-- DS and ES stay where their DPL is 3. -/
theorem zeroOnReturn_of_dpl3 {x : SegReg} {r : Regs} (h : (r.cache x).dpl = 3) (n : Nat) : zeroOnReturn x n r = r := by
  have hlt : decide ((r.cache x).dpl < 3) = false := by rw [h]; rfl
  rw [zeroOnReturn, hlt, Bool.false_and, if_neg Bool.false_ne_true]

theorem zeroOnReturn_cases (x : SegReg) (n : Nat) (r : Regs) :
    zeroOnReturn x n r = r ∨ zeroOnReturn x n r = r.setSeg x 0 (nullCache n) := by
  unfold zeroOnReturn
  split
  · exact .inr rfl
  · exact .inl rfl

theorem zeroOnReturn_msw (x : SegReg) (n : Nat) (r : Regs) : (zeroOnReturn x n r).msw = r.msw := by
  obtain h | h := zeroOnReturn_cases x n r <;> rw [h]
  exact setSeg_msw r x 0 (nullCache n)

theorem zeroOnReturn_other {x y : SegReg} (h : y ≠ x) (n : Nat) (r : Regs) :
    (zeroOnReturn x n r).seg y = r.seg y ∧ (zeroOnReturn x n r).cache y = r.cache y := by
  obtain hz | hz := zeroOnReturn_cases x n r <;> rw [hz]
  · exact ⟨rfl, rfl⟩
  · exact ⟨setSeg_seg_other r x y 0 _ h, setSeg_cache_other r x y 0 _ h⟩

theorem returnRegs_msw (f : ReturnFrame) (fl : Word) (n : Nat) (r : Regs) : (returnRegs f fl n r).msw = r.msw :=
  (zeroOnReturn_msw .es (n + 1) _).trans (zeroOnReturn_msw .ds n r)

theorem returnRegs_ds {r : Regs} (h : r.dsCache.dpl = 3) (f : ReturnFrame) (fl : Word) (n : Nat) :
    (returnRegs f fl n r).ds = r.ds ∧ (returnRegs f fl n r).dsCache = r.dsCache := by
  have hes := zeroOnReturn_other (x := .es) (y := .ds) (by decide) (n + 1) (zeroOnReturn .ds n r)
  rw [zeroOnReturn_of_dpl3 (x := .ds) h] at hes
  simp only [returnRegs, zeroOnReturn_of_dpl3 (x := .ds) h]
  exact hes

theorem returnRegs_es {r : Regs} (h : r.esCache.dpl = 3) (f : ReturnFrame) (fl : Word) (n : Nat) :
    (returnRegs f fl n r).es = r.es ∧ (returnRegs f fl n r).esCache = r.esCache := by
  have hds := zeroOnReturn_other (x := .ds) (y := .es) (by decide) n r
  have hkeep : zeroOnReturn .es (n + 1) (zeroOnReturn .ds n r) = zeroOnReturn .ds n r :=
    zeroOnReturn_of_dpl3 (by rw [hds.2]; exact h) (n + 1)
  simp only [returnRegs, hkeep]
  exact hds

/-! ### The return -/

theorem protectedReturn_null {f : ReturnFrame} (h : f.null = true) (flags : Option Word) (s : State) :
    protectedReturn f flags s = .refused .nullSelectorNotForCsSs := by
  simp [protectedReturn, h]

theorem protectedReturn_fault {f : ReturnFrame} {l : Level} {s : State} {code : Word} (hl : AtLevel l s)
    (hn : f.null = false) (h : returnFault f l = some code) (flags : Option Word) :
    protectedReturn f flags s = .next (excepted 13 (some code) s) := by
  obtain ⟨_, hc, hs⟩ := hl
  simp [protectedReturn, hn, askCpl_at hc hs, h, protectionException_eq_excepted]

/-- The state that a return leaves which no selector is at fault in. -/
def returned (f : ReturnFrame) (fl : Word) (s : State) : State :=
  { s with regs := returnRegs f fl s.draws s.regs, prefetch := [], prefixes := 0, draws := s.draws + 5 }

theorem protectedReturn_completes {f : ReturnFrame} {l : Level} {s : State} (hl : AtLevel l s) (hn : f.null = false)
    (h : returnFault f l = none) (fl : Word) : protectedReturn f (some fl) s = .next (returned f fl s) := by
  obtain ⟨_, hc, hs⟩ := hl
  simp [protectedReturn, hn, askCpl_at hc hs, h, returned]

theorem transfers_returned {f : ReturnFrame} {c d : Cache} {l : Level} {s : State} (hl : AtLevel l s)
    (hrpl : f.cs.extractLsb' 0 2 = f.ss.extractLsb' 0 2) (hc : f.csDesc = some c) (hd : f.ssDesc = some d)
    (hcdpl : c.dpl = f.cs.extractLsb' 0 2) (hddpl : d.dpl = f.ss.extractLsb' 0 2) (fl : Word) :
    Transfers f c d fl s (.next (returned f fl s)) := by
  have hcs : (returned f fl s).regs.csCache = c := by simp [returned, returnRegs, hc]
  have hss : (returned f fl s).regs.ssCache = d := by simp [returned, returnRegs, hd]
  have hcpl : (returned f fl s).cpl = some (f.cs.extractLsb' 0 2) :=
    cpl_of_dpls (by rw [State.csDpl, hcs, hcdpl]) (by rw [State.ssDpl, hss, hddpl, hrpl])
  have hmode : (returned f fl s).isProtected = true :=
    (congrArg mswProtected (returnRegs_msw f fl s.draws s.regs)).trans hl.1
  exact ⟨_, rfl, rfl, rfl, rfl, hcs, hss, hcpl, rfl, fun h => returnRegs_ds h f fl s.draws,
    fun h => returnRegs_es h f fl s.draws, hmode, rfl, rfl, fun _ => rfl⟩

/-- What the protected mode return answers, check by check in their order. -/
theorem returnsTo_protectedReturn (f : ReturnFrame) {l : Level} {s : State} (hl : AtLevel l s) (fl : Word) :
    ReturnsTo f l fl s (protectedReturn f (some fl) s) := by
  refine ⟨fun hnull => protectedReturn_null (null_of_le hnull) (some fl) s, fun hcs hss => ⟨fun hfail => ?csFails,
    fun hrpl c hc hfits hfurther => ⟨fun hfail => ?ssFails, fun d hd hdfits hdfurther => ?transfer⟩⟩⟩
  case csFails =>
    refine protectedReturn_fault hl (null_of_gt hcs hss) ?_ (some fl)
    by_cases hrpl : selectorRpl f.cs = selectorRpl f.ss
    · have hload : returnLoadFails .cs f.cs f.csDesc l = true :=
        returnLoadFails_of_forall (hfail.resolve_left fun hne => hne hrpl)
      rw [returnFault, if_neg (not_not.mpr hrpl), if_pos hload]
      rfl
    · rw [returnFault, if_pos hrpl]
      rfl
  all_goals
    have hrpl' : ¬ selectorRpl f.cs ≠ selectorRpl f.ss := not_not.mpr hrpl
    have hcsload : returnLoadFails .cs f.cs f.csDesc l = false := hc ▸ returnLoadFails_of_fits hfits hfurther
  case ssFails =>
    have hload : returnLoadFails .ss f.ss f.ssDesc l = true := returnLoadFails_of_forall hfail
    refine protectedReturn_fault hl (null_of_gt hcs hss) ?_ (some fl)
    rw [returnFault, if_neg hrpl', hcsload, if_neg Bool.false_ne_true, if_pos hload]
    rfl
  case transfer =>
    have hssload : returnLoadFails .ss f.ss f.ssDesc l = false := hd ▸ returnLoadFails_of_fits hdfits hdfurther
    have hnone : returnFault f l = none := by
      rw [returnFault, if_neg hrpl', hcsload, if_neg Bool.false_ne_true, hssload, if_neg Bool.false_ne_true]
    rw [protectedReturn_completes hl (null_of_gt hcs hss) hnone fl]
    exact transfers_returned hl hrpl hc hd hfits.2 hdfits.2 fl

/-- Settles O53: IRET and RET are the protected mode return with their own flag words. -/
theorem returnFromTrap : Obligations.ReturnFromTrap := by
  intro f b l s hl
  refine ⟨fun hnt => ?iret, ?ret⟩
  case iret =>
    have hnt : flagNt s.regs.flags = false := hnt
    rw [trapReturn, if_pos hl.1, hnt, if_neg Bool.false_ne_true, popFlags_at hl]
    exact returnsTo_protectedReturn f hl _
  case ret =>
    rw [farReturn, if_pos hl.1]
    exact returnsTo_protectedReturn f hl _

/-! ### INT -/

/-- The error code of a faulting INT is 8 times the vector and 2 (60_exceptions.md R232; log 25). -/
theorem vectorErrorCode_toNat (v : Byte) : (vectorErrorCode v).toNat = 8 * v.toNat + 2 := by
  have hv := v.isLt
  have hshift : ((v.zeroExtend 16 <<< 3 : Word)).toNat = v.toNat <<< 3 := by
    rw [BitVec.toNat_shiftLeft, BitVec.toNat_setWidth, Nat.shiftLeft_eq, Nat.shiftLeft_eq]
    omega
  have hor : v.toNat <<< 3 ||| 2 = v.toNat <<< 3 + 2 := (Nat.shiftLeft_add_eq_or_of_lt (by decide) v.toNat).symm
  have htwo : (0x0002 : Word).toNat = 2 := rfl
  rw [vectorErrorCode, BitVec.toNat_or, hshift, htwo, hor, Nat.shiftLeft_eq]
  omega

theorem getLsbD_zero_vectorErrorCode (v : Byte) : (vectorErrorCode v).getLsbD 0 = false := by
  rw [BitVec.getLsbD, vectorErrorCode_toNat, Nat.testBit_zero]
  simp
  omega

/-- Settles O54: by the gate's level against CPL. -/
theorem intGate : Obligations.IntGate := by
  intro v gate len l s ⟨hp, hc, hs⟩
  refine ⟨fun hlt => ⟨_, ?_, vectorErrorCode_toNat v, getLsbD_zero_vectorErrorCode v⟩,
    fun hle => ⟨nextIp len s, ?_, nextIp_of_lt⟩⟩
  · rw [intOp, if_pos hp, askCpl_at hc hs, decide_eq_true hlt, protectionException_eq_excepted]
  · rw [intOp, if_pos hp, askCpl_at hc hs, decide_eq_false (BitVec.not_lt.mpr hle)]
    rfl

end Sys2Proof.Machine
end

section
/-! The processor extension (42_other_instructions.md R165 to R168; 20_memory.md R49, R50). -/

namespace Sys2Proof.Machine

/-- Settles O55: TS is the first check, whatever the instruction. -/
theorem escWithTsSet : Obligations.EscWithTsSet := by
  intro fninit body s hts
  have hts : mswTs s.regs.msw = true := hts
  rw [escCheck, if_pos hts, takeException_eq_excepted]

/-- Settles O57: with TS and ERROR out of the way FNINIT runs, and needs no settling of the 80287. -/
theorem fninitForcesIdle : Obligations.FninitForcesIdle := by
  intro len s hts herr
  exact ⟨_, escCheck_run hts herr, rfl, rfl, rfl, rfl, rfl, rfl, ipAdvanced_advance rfl, rfl, rfl⟩

theorem withinLimit_of_expandUp {c : Cache} (hd : c.expandDown = false) (off n : Nat) :
    c.withinLimit off n = decide (off + n - 1 ≤ c.limit.toNat) := by
  simp [Cache.withinLimit, hd]

theorem limitStop_first (x : SegReg) : limitStop x false = .exception (if x = .ss then 12 else 13) (some 0) := by
  cases x <;> rfl

/-- A transfer whose word is beyond the limit raises exception 9. -/
theorem transferOp_overrun {p : PxTransfer} {s : State}
    (h : segAccess p.seg p.off 2 p.kind true s = .error (.exception 9 none)) : transferOp p s = .next (overrun p s) := by
  simp [transferOp, h]

/-- What a transfer that raised exception 9 may have written lies within the limit. -/
theorem mem_loose {p : PxTransfer} {s : State} {w : Addr × Byte} (hd : (s.regs.cache p.seg).expandDown = false)
    (h : w ∈ p.loose s) : ∃ j, j < 2 ∧ p.off + j ≤ (s.regs.cache p.seg).limit.toNat ∧
      segAccess p.seg (p.off + j) 1 .write false s = .ok w.1 := by
  unfold PxTransfer.loose at h
  split at h
  · obtain ⟨j, hj, haccess⟩ := mem_looseBytes h
    obtain ⟨_, hwithin, _, _⟩ := segAccess_ok haccess
    rw [withinLimit_of_expandUp hd, decide_eq_true_eq] at hwithin
    exact ⟨j, hj, by omega, haccess⟩
  · cases h

theorem loose_of_read {p : PxTransfer} (h : p.write = none) (s : State) : p.loose s = [] := by
  simp [PxTransfer.loose, h]

/-- An ESC instruction whose first word its reference stops, with an 80287 that needs no FNINIT. -/
theorem escMemory_stop {x : SegReg} {off : Word} {k : Kind} {s : State} {n : Nat} {code : Option Word}
    (hts : mswTs s.regs.msw = false) (herr : s.now.error = false) (hinit : s.px.needsInit = false)
    (h : segAccess x off.toNat 2 k false s = .error (.exception n code)) (len : Nat) :
    escMemory x off k len s = .next (excepted n code s) := by
  rw [escMemory, escCheck_run hts herr, h, if_neg Bool.false_ne_true]
  exact congrArg _ (settlePx_of_not hinit _)

/-- Settles O56: a later word, and the first one, beyond the limit. -/
theorem extensionOverrun : Obligations.ExtensionOverrun := by
  intro p off k len s hv hd
  refine ⟨fun hlimit => ?later, fun hlimit hts herr hinit => ?first⟩
  case later =>
    have hwithin : (s.regs.cache p.seg).withinLimit p.off 2 = false := by
      rw [withinLimit_of_expandUp hd]
      exact decide_eq_false (by omega)
    exact ⟨_, transferOp_overrun (segAccess_limit hv hwithin), rfl, rfl, rfl, rfl, rfl, rfl, p.loose s, rfl,
      fun hread => loose_of_read hread s, fun w hw => mem_loose hd hw⟩
  case first =>
    have hwithin : (s.regs.cache p.seg).withinLimit off.toNat 2 = false := by
      rw [withinLimit_of_expandUp hd]
      exact decide_eq_false (by omega)
    exact escMemory_stop hts herr hinit ((segAccess_limit hv hwithin).trans (congrArg _ (limitStop_first p.seg))) len

end Sys2Proof.Machine
end

section
/-! The restart of string instructions (42_other_instructions.md R175 to R181; 70_reset_and_hazards.md R294). -/

namespace Sys2Proof.Machine

/-- The correction of an index register has the operand size as its magnitude; its sign is free (log 41). -/
theorem indexStep_cases (f : StringFault) :
    indexStep f = (if f.wide then 2 else 1) ∨ indexStep f = -(if f.wide then 2 else 1) := by
  unfold indexStep
  cases Config.restartUpwards f.df with
  | true => exact .inl rfl
  | false => exact .inr rfl

theorem restartRegs_later (f : StringFault) (r : StringRegs) :
    restartRegs .later f r = { si := r.si + siFix f, di := r.di + diFix f, cx := r.cx + cxFix f } := rfl

theorem cxFromStart_iff {st : Stepping} {f : StringFault} :
    cxFromStart st f = true ↔ st ≠ .later ∧ f.repeated = true ∧ f.limitOrIopl = true := by
  simp [cxFromStart, and_assoc]

/-- Settles O58: instruction by instruction from the table of corrections, which undo what the fault left. -/
theorem stringRestart : Obligations.StringRestart := by
  intro f r
  refine ⟨indexStep f, indexStep_cases f, fun h => ?stos, fun h => ?ins, fun h => ?scas, fun h => ?outs, fun h => ?movs,
    fun h => ?cmps, fun st c => ?restores⟩
  case stos => simp [restartRegs_later, siFix, diFix, cxFix, h]
  case ins => simp [restartRegs_later, siFix, diFix, cxFix, h]
  case scas => simp [restartRegs_later, siFix, diFix, cxFix, h]
  case outs => simp [restartRegs_later, siFix, diFix, cxFix, h]
  case movs => cases hn : f.namedOperand <;> simp [restartRegs_later, siFix, diFix, cxFix, h, hn]
  case cmps => cases hn : f.namedOperand <;> simp [restartRegs_later, siFix, diFix, cxFix, h, hn]
  case restores =>
    rw [restartRegs_savedRegs]
    simp only [cxFromStart_iff]

end Sys2Proof.Machine
end

section
/-! The saved CS:IP by stepping (70_reset_and_hazards.md R291 to R293), and what MOVS leaves at a fault
(42_other_instructions.md R175, R180; 60_exceptions.md R244). -/

namespace Sys2Proof.Machine

/-! ### The saved IP -/

/-- In a case of the errata the saved IP is the one the stepping gives. -/
theorem steppingIp_savedIpOf {early : Bool} (h : early = true) (len : Nat) (s : State) :
    SteppingIp len s (savedIpOf early len s) := by
  subst h
  refine ⟨fun hlater => ?_, fun hearly hlt => ?_⟩
  · simp [savedIpOf, isEarly, hlater]
  · have hip : savedIpOf true len s = nextIp len s := by simp [savedIpOf, isEarly, hearly]
    rw [hip, nextIp_of_lt hlt]

theorem savedIpOf_later {s : State} (h : s.params.stepping = .later) (early : Bool) (len : Nat) :
    savedIpOf early len s = s.regs.ip := by
  simp [savedIpOf, isEarly, h]

/-! ### Null selectors and limits -/

theorem holdsNull_of_nullIn {x : SegReg} {s : State} (h : NullIn x s) : holdsNull x s = true := by
  obtain ⟨hp, _, hle, hv⟩ := h
  simp [holdsNull, hp, nullSelector_iff.mpr hle, hv]

theorem limitViolated_of_beyond {x : SegReg} {off : Word} {n : Nat} {s : State} (h : Beyond x off n s) :
    limitViolated x off.toNat n s = true := by
  obtain ⟨hv, hd, hl⟩ := h
  rw [limitViolated_iff, withinLimit_of_expandUp hd]
  exact ⟨hv, decide_eq_false (by omega)⟩

theorem nullOrLimit_of {x : SegReg} {off : Word} {n : Nat} {s : State} (h : NullIn x s ∨ Beyond x off n s) :
    nullOrLimit x off.toNat n s = true := by
  obtain h | h := h
  · rw [nullOrLimit, holdsNull_of_nullIn h, Bool.true_or]
  · rw [nullOrLimit, limitViolated_of_beyond h, Bool.or_true]

theorem segAccess_of_beyond {x : SegReg} {off : Word} {n : Nat} {s : State} (h : Beyond x off n s) (k : Kind) :
    segAccess x off.toNat n k false s = .error (.exception (if x = .ss then 12 else 13) (some 0)) := by
  rw [segAccess_of_limitViolated (limitViolated_of_beyond h), limitStop_first]

theorem segAccess_of_nullIn {x : SegReg} {s : State} (h : NullIn x s) (off n : Nat) (k : Kind) :
    segAccess x off n k false s = .error (.exception (if x = .ss then 12 else 13) (some 0)) := by
  obtain ⟨_, hss, _, hv⟩ := h
  rw [segAccess_invalid hv, invalidStop_of_ne_ss hss, if_neg hss]

theorem segAccess_of_nullIn_or_beyond {x : SegReg} {off : Word} {n : Nat} {s : State} (h : NullIn x s ∨ Beyond x off n s)
    (k : Kind) : segAccess x off.toNat n k false s = .error (.exception (if x = .ss then 12 else 13) (some 0)) :=
  h.elim (fun h => segAccess_of_nullIn h off.toNat n k) (fun h => segAccess_of_beyond h k)

/-! ### POP to memory, FSTSW and FSTCW, PUSH from memory -/

theorem raiseAt_exception (n : Nat) (code : Option Word) (ip : Word) (s : State) :
    raiseAt (.exception n code) ip s = .next (takeExceptionAt n code ip s) := rfl

/-- The outcome that a stop records does not depend on what it leaves unspecified. -/
theorem raiseLoose_event {loose : State → State} (hloose : ∀ u, (loose u).regs.cs = u.regs.cs) (x : SegReg) (off n m : Nat)
    (code : Option Word) (ip : Word) (s : State) :
    ∃ t, raiseLoose x off n (.exception m code) ip loose s = .next t ∧
      t.event = some (.exception m code s.regs.cs ip) := by
  obtain h | ⟨_, _, h⟩ := raiseLoose_cases x off n (.exception m code) ip loose s
  · exact ⟨_, h, rfl⟩
  · exact ⟨_, h, by rw [takeExceptionAt_event, hloose]⟩

theorem popToMemory_event {x : SegReg} {off v : Word} {s : State} {n : Nat} {code : Option Word}
    (hread : segReadWord .ss s.regs.sp s = .ok v)
    (hwrite : segAccess x off.toNat 2 .write false s = .error (.exception n code)) (len : Nat) :
    ∃ t, popToMemory x off len s = .next t ∧
      t.event = some (.exception n code s.regs.cs (savedIpOf (nullOrLimit x off.toNat 2 s) len s)) := by
  rw [popToMemory, hread]
  simp only [segWriteWord_error hwrite]
  exact raiseLoose_event (loose := fun u => looseReg .sp (looseWrite x off.toNat 2 len u)) (fun _ => rfl) x off.toNat 2 n
    code _ s

theorem escStore_event {x : SegReg} {off : Word} {s : State} {n : Nat} {code : Option Word}
    (hts : mswTs s.regs.msw = false) (herr : s.now.error = false)
    (hwrite : segAccess x off.toNat 2 .write false s = .error (.exception n code)) (len : Nat) :
    ∃ t, escStore x off len s = .next t ∧
      t.event = some (.exception n code s.regs.cs (savedIpOf (nullOrLimit x off.toNat 2 s) len s)) := by
  have hwrite' : segAccess x off.toNat 2 .write false { s with draws := s.draws + 1 } = .error (.exception n code) := by
    rw [← hwrite]
    exact segAccess_congr rfl rfl
  obtain ⟨p, d, hsettle⟩ := settlePx_cases s.px
    (takeExceptionAt n code (savedIpOf (nullOrLimit x off.toNat 2 s) len s) s)
  refine ⟨{ takeExceptionAt n code (savedIpOf (nullOrLimit x off.toNat 2 s) len s) s with px := p, draws := d }, ?_, rfl⟩
  rw [escStore, escCheck_run hts herr, if_neg Bool.false_ne_true, segWriteWord_error hwrite']
  exact congrArg _ hsettle

theorem pushFromMemory_event {x : SegReg} {off v : Word} {s : State} {n : Nat} {code : Option Word}
    (hread : segReadWord x off s = .ok v)
    (hwrite : segAccess .ss (s.regs.sp - 2).toNat 2 .write false s = .error (.exception n code)) (len : Nat) :
    ∃ t, pushFromMemory x off len s = .next t ∧
      t.event = some (.exception n code s.regs.cs
        (savedIpOf (limitViolated .ss (s.regs.sp - 2).toNat 2 s) len s)) := by
  rw [pushFromMemory, hread]
  simp only [pushAt, segWriteWord_error hwrite]
  exact ⟨_, rfl, rfl⟩

/-! ### String instructions -/

theorem stringStop_event (i : StringInstr) (k : Nat) (r : StringRef) (n : Nat) (code : Option Word) (s : State) :
    ∃ t, stringStop i k r (.exception n code) s = .next t ∧
      t.event = some (.exception n code s.regs.cs (savedIpOf (i.early r s) i.len s)) := by
  obtain ⟨si, di, cx, h⟩ := stringStopRegs_cases i k r s
  refine ⟨_, rfl, ?_⟩
  rw [takeExceptionAt_event, h]

/-- A null ES at a reference through ES is one of the errata of MOVS and INS (70_reset_and_hazards.md R291; log 57). -/
theorem early_of_null {i : StringInstr} {r : StringRef} {s : State} (hrep : i.repeated = false)
    (hop : i.op = .movs ∨ i.op = .ins) (hseg : r.seg = .es) (h : NullIn .es s) : i.early r s = true := by
  obtain hop | hop := hop <;> simp [StringInstr.early, hrep, hop, hseg, holdsNull_of_nullIn h]

/-- And so is ES:DI beyond the limit. -/
theorem early_of_beyond {i : StringInstr} {s : State} (hrep : i.repeated = false) (hop : i.op = .movs ∨ i.op = .ins)
    (h : Beyond .es s.regs.di i.size s) : i.early ⟨.es, s.regs.di, .write⟩ s = true := by
  obtain hop | hop := hop <;> simp [StringInstr.early, hrep, hop, limitViolated_of_beyond h]

theorem early_of_null_or_beyond {i : StringInstr} {s : State} (hrep : i.repeated = false) (hop : i.op = .movs ∨ i.op = .ins)
    (h : NullIn .es s ∨ Beyond .es s.regs.di i.size s) : i.early ⟨.es, s.regs.di, .write⟩ s = true :=
  h.elim (early_of_null hrep hop rfl) (early_of_beyond hrep hop)

/-- An iteration that one of the errata stops. -/
theorem stringOp_steppingIp {i : StringInstr} {s : State} {k : Nat} {r : StringRef}
    (hport : i.usesPort = false ∨ (ioplDenied s = some false ∧ reservedPort i.port = false))
    (hrefs : refAddrs i.size s 0 (i.refs s.regs) = .error (k, r, .exception 13 (some 0))) (hearly : i.early r s = true)
    (complete : State → State) :
    ∃ t ip, stringOp i complete s = .next t ∧ SteppingIp i.len s ip ∧
      t.event = some (.exception 13 (some 0) s.regs.cs ip) := by
  obtain ⟨t, ht, hevent⟩ := stringStop_event i k r 13 (some 0) s
  exact ⟨t, _, (stringOp_of_ref_error hport hrefs).trans ht, steppingIp_savedIpOf hearly i.len s, hevent⟩

section
variable {i : StringInstr} {s : State} {st : Stop}

theorem usesPort_of_movs (h : i.op = .movs) : i.usesPort = false := by simp [StringInstr.usesPort, h]

theorem refs_movs (h : i.op = .movs) (r : Regs) : i.refs r = [⟨i.src, r.si, .read⟩, ⟨.es, r.di, .write⟩] := by
  simp [StringInstr.refs, h]

theorem refs_ins (h : i.op = .ins) (r : Regs) : i.refs r = [⟨.es, r.di, .write⟩] := by simp [StringInstr.refs, h]

/-- MOVS stops at its source first. -/
theorem refAddrs_movs_source (h : i.op = .movs) (hsrc : segAccess i.src s.regs.si.toNat i.size .read false s = .error st) :
    refAddrs i.size s 0 (i.refs s.regs) = .error (0, ⟨i.src, s.regs.si, .read⟩, st) := by
  rw [refs_movs h]
  exact refAddrs_cons_error (r := ⟨i.src, s.regs.si, .read⟩) hsrc

theorem refAddrs_movs_dest {a : Addr} (h : i.op = .movs)
    (hsrc : segAccess i.src s.regs.si.toNat i.size .read false s = .ok a)
    (hdst : segAccess .es s.regs.di.toNat i.size .write false s = .error st) :
    refAddrs i.size s 0 (i.refs s.regs) = .error (1, ⟨.es, s.regs.di, .write⟩, st) := by
  rw [refs_movs h, refAddrs_cons_ok (r := ⟨i.src, s.regs.si, .read⟩) hsrc,
    refAddrs_cons_error (r := ⟨.es, s.regs.di, .write⟩) hdst]
  rfl

theorem refAddrs_movs_ok {a b : Addr} (h : i.op = .movs)
    (hsrc : segAccess i.src s.regs.si.toNat i.size .read false s = .ok a)
    (hdst : segAccess .es s.regs.di.toNat i.size .write false s = .ok b) :
    refAddrs i.size s 0 (i.refs s.regs) = .ok [a, b] := by
  rw [refs_movs h, refAddrs_cons_ok (r := ⟨i.src, s.regs.si, .read⟩) hsrc,
    refAddrs_cons_ok (r := ⟨.es, s.regs.di, .write⟩) hdst]
  rfl

theorem refAddrs_ins_dest (h : i.op = .ins) (hdst : segAccess .es s.regs.di.toNat i.size .write false s = .error st) :
    refAddrs i.size s 0 (i.refs s.regs) = .error (0, ⟨.es, s.regs.di, .write⟩, st) := by
  rw [refs_ins h]
  exact refAddrs_cons_error (r := ⟨.es, s.regs.di, .write⟩) hdst

end

theorem reservedPort_eq_false {p : Word} (h : p.toNat < 0x00F8 ∨ 0x00FF < p.toNat) : reservedPort p = false := by
  rw [reservedPort, ← Bool.decide_and]
  exact decide_eq_false (by omega)

/-- Settles O59: the four faults, each with the saved IP of its erratum. -/
theorem savedIpBySteppings : Obligations.SavedIpBySteppings := by
  intro x off len i complete s
  refine ⟨fun hdst ⟨v, hread⟩ => ?pop, fun hdst hts herr => ?store, fun hstack ⟨v, hread⟩ => ?push, fun hes hrep hop => ?string⟩
  case pop =>
    obtain ⟨t, ht, hevent⟩ := popToMemory_event hread (segAccess_of_nullIn_or_beyond hdst .write) len
    exact ⟨t, _, ht, steppingIp_savedIpOf (nullOrLimit_of hdst) len s, hevent⟩
  case store =>
    obtain ⟨t, ht, hevent⟩ := escStore_event hts herr (segAccess_of_nullIn_or_beyond hdst .write) len
    exact ⟨t, _, ht, steppingIp_savedIpOf (nullOrLimit_of hdst) len s, hevent⟩
  case push =>
    obtain ⟨t, ht, hevent⟩ := pushFromMemory_event hread (segAccess_of_beyond hstack .write) len
    exact ⟨t, _, ht, steppingIp_savedIpOf (limitViolated_of_beyond hstack) len s, hevent⟩
  case string =>
    have hdst : segAccess .es s.regs.di.toNat i.size .write false s = .error (.exception 13 (some 0)) :=
      segAccess_of_nullIn_or_beyond hes .write
    obtain ⟨hmovs, ⟨a, hsrc⟩ | ⟨hsrc, hnull⟩⟩ | ⟨hins, hport, hiopl⟩ := hop
    · exact stringOp_steppingIp (.inl (usesPort_of_movs hmovs)) (refAddrs_movs_dest hmovs hsrc hdst)
        (early_of_null_or_beyond hrep (.inl hmovs) hes) complete
    · have hsource : segAccess i.src s.regs.si.toNat i.size .read false s = .error (.exception 13 (some 0)) := by
        rw [hsrc]
        exact segAccess_of_nullIn hnull _ _ .read
      exact stringOp_steppingIp (.inl (usesPort_of_movs hmovs)) (refAddrs_movs_source hmovs hsource)
        (early_of_null hrep (.inl hmovs) hsrc hnull) complete
    · exact stringOp_steppingIp (.inr ⟨ioplDenied_of_allowed hiopl, reservedPort_eq_false hport⟩)
        (refAddrs_ins_dest hins hdst) (early_of_null_or_beyond hrep (.inr hins) hes) complete

/-! ### MOVS -/

/-- What an operand stored again as it was loaded does to memory. -/
theorem store_load (i : StringInstr) (a b : Addr) (s : State) :
    i.store b (i.load a s.mem) s =
      storeMem i.len (fun m => if i.wide then m.setWord b (s.mem.word a) else m.setByte b (s.mem.byte a)) s := by
  unfold StringInstr.store StringInstr.load
  cases i.wide with
  | true => rfl
  | false =>
    have hbyte : ((s.mem.byte a).zeroExtend 16).extractLsb' 0 8 = s.mem.byte a := by
      apply BitVec.eq_of_toNat_eq
      have hlt := (s.mem.byte a).isLt
      rw [BitVec.extractLsb'_toNat, BitVec.toNat_setWidth, Nat.shiftRight_zero]
      omega
    simp only [Bool.false_eq_true, if_false, hbyte]

/-- At an invalid cache and without the errata an iteration appears as not attempted (log 54). -/
theorem stringOp_invalid {i : StringInstr} {s : State} {k : Nat} {r : StringRef} (hport : i.usesPort = false)
    (hv : (s.regs.cache r.seg).valid = false) (hst : s.params.stepping = .later)
    (hrefs : refAddrs i.size s 0 (i.refs s.regs) = .error (k, r, .exception 13 (some 0))) (complete : State → State) :
    stringOp i complete s = .next (excepted 13 (some 0) s) := by
  rw [stringOp_of_ref_error (.inl hport) hrefs, stringStop, stringStopRegs_of_invalid hv, savedIpOf_later hst]
  rfl

/-- An iteration that a limit violation stopped reaches the handler with SI, DI and CX corrected and memory as it was. -/
theorem stringOp_beyond {i : StringInstr} {s : State} {k n : Nat} {r : StringRef} (hport : i.usesPort = false)
    (hb : Beyond r.seg r.off i.size s)
    (hrefs : refAddrs i.size s 0 (i.refs s.regs) = .error (k, r, .exception n (some 0))) (complete : State → State) :
    ∃ ip, stringOp i complete s =
      .next (takeExceptionAt n (some 0) ip (withSavedRegs i (i.fault false k true s) s)) := by
  refine ⟨savedIpOf (i.early r s) i.len s, ?_⟩
  rw [stringOp_of_ref_error (.inl hport) hrefs, stringStop, stringStopRegs_of_valid hb.1, limitViolated_of_beyond hb,
    raiseAt_exception]

theorem cxFix_of_not_repeated {f : StringFault} (h : f.repeated = false) : cxFix f = 0 := by simp [cxFix, h]

/-- CX at a limit violation, by repetition and stepping (70_reset_and_hazards.md R294). -/
theorem savedCx_cases {f : StringFault} (hlimit : f.limitOrIopl = true) (st : Stepping) (startCx cx : Word) :
    (f.repeated = false → (if cxFromStart st f then startCx else cx - cxFix f) = cx) ∧
      (f.repeated = true → st = .later → (if cxFromStart st f then startCx else cx - cxFix f) + cxFix f = cx) ∧
      (f.repeated = true → st ≠ .later → (if cxFromStart st f then startCx else cx - cxFix f) = startCx) := by
  refine ⟨fun hrep => ?_, fun hrep hst => ?_, fun hrep hst => ?_⟩
  · rw [if_neg (by simp [cxFromStart_iff, hrep]), cxFix_of_not_repeated hrep]
    exact BitVec.sub_zero cx
  · rw [if_neg (by simp [cxFromStart_iff, hst]), BitVec.sub_add_cancel]
  · rw [if_pos (cxFromStart_iff.mpr ⟨hst, hrep, hlimit⟩)]

section
variable {f : StringFault} (h : f.op = .movs)
include h

theorem siFix_movs : siFix f = indexStep f := by simp [siFix, h]

theorem diFix_movs_source (hn : f.namedOperand = true) : diFix f = 0 := by simp [diFix, h, hn]

theorem diFix_movs_dest (hn : f.namedOperand = false) : diFix f = indexStep f := by simp [diFix, h, hn]

theorem cxFix_movs_source (hn : f.namedOperand = true) (hr : f.repeated = true) : cxFix f = 1 := by simp [cxFix, h, hn, hr]

theorem cxFix_movs_dest (hn : f.namedOperand = false) (hr : f.repeated = true) : cxFix f = 2 := by simp [cxFix, h, hn, hr]

end

/-- Settles O60: MOVS by the first of its references that fails, and by why. -/
theorem movsFaultRegisters : Obligations.MovsFaultRegisters := by
  intro i complete s hop
  have hport := usesPort_of_movs hop
  refine ⟨fun a b hrep hsrc hdst => ?copies, fun hst => ⟨fun hss hv => ?sourceInvalid, fun ⟨a, hsrc⟩ hv => ?destInvalid⟩,
    indexStep (i.fault false 0 true s), indexStep_cases _, fun hb => ?sourceBeyond, fun ⟨a, hsrc⟩ hb => ?destBeyond⟩
  case copies =>
    have hend : ∀ u, stringEnd i u = advance i.len u := fun u => by simp [stringEnd, hrep]
    have heffect : i.effect [a, b] s = i.store b (i.load a s.mem) s := by simp [StringInstr.effect, hop]
    rw [stringOp_of_refs_ok (.inl hport) (refAddrs_movs_ok hop hsrc hdst), hend, heffect, store_load]
  case sourceInvalid =>
    have hsource : segAccess i.src s.regs.si.toNat i.size .read false s = .error (.exception 13 (some 0)) := by
      rw [segAccess_invalid hv, invalidStop_of_ne_ss hss]
    exact stringOp_invalid (r := ⟨i.src, s.regs.si, .read⟩) hport hv hst (refAddrs_movs_source hop hsource) complete
  case destInvalid =>
    have hdst : segAccess .es s.regs.di.toNat i.size .write false s = .error (.exception 13 (some 0)) :=
      segAccess_invalid hv
    exact stringOp_invalid (r := ⟨.es, s.regs.di, .write⟩) hport hv hst (refAddrs_movs_dest hop hsrc hdst) complete
  case sourceBeyond =>
    have hf : (i.fault false 0 true s).op = .movs := hop
    obtain ⟨ip, hstep⟩ := stringOp_beyond (r := ⟨i.src, s.regs.si, .read⟩) hport hb
      (refAddrs_movs_source hop (segAccess_of_beyond hb .read)) complete
    obtain ⟨hnot, hlater, hearly⟩ :=
      savedCx_cases (f := i.fault false 0 true s) rfl s.params.stepping i.startCx s.regs.cx
    refine ⟨_, ip, hstep, rfl, ?_, ?_, ?_, hnot, fun hrep hst => ?_, hearly, fun _ => rfl⟩
    · simp [siFix_movs hf]
    · simp [diFix_movs_source hf rfl]
    · simp [diFix_movs_source hf rfl]
    · rw [← cxFix_movs_source hf rfl hrep]
      exact hlater hrep hst
  case destBeyond =>
    have hf : (i.fault false 1 true s).op = .movs := hop
    have hstep' : indexStep (i.fault false 1 true s) = indexStep (i.fault false 0 true s) := rfl
    obtain ⟨ip, hstep⟩ := stringOp_beyond (r := ⟨.es, s.regs.di, .write⟩) hport hb
      (refAddrs_movs_dest hop hsrc (segAccess_of_beyond hb .write)) complete
    obtain ⟨hnot, hlater, hearly⟩ :=
      savedCx_cases (f := i.fault false 1 true s) rfl s.params.stepping i.startCx s.regs.cx
    refine ⟨_, ip, hstep, rfl, ?_, ?_, ?_, hnot, fun hrep hst => ?_, hearly, fun _ => rfl⟩
    · simp [siFix_movs hf, hstep']
    · simp [diFix_movs_dest hf rfl, hstep']
    · simp
    · rw [← cxFix_movs_dest hf rfl hrep]
      exact hlater hrep hst

end Sys2Proof.Machine
end
